-- ==== Sys2Proof/Word.lean ====
section
/-! DEFINITION. The word of the register space and the float word. -/

namespace Sys2Proof

/-- A word of the register space (10_state.md section 2: "All registers are 32 bits wide"). -/
abbrev Word := BitVec 32

/-- The bit pattern of an IEEE 754 binary32 value (44_synthesis.md R220). -/
abbrev F32 := BitVec 32

end Sys2Proof
end

