-- ==== Sys2Proof/Config.lean ====
section
/-! DEFINITION. The enumerations, the parameter record T with the named parameters of 00_scope.md R5, and
the free values, which have no body. -/

namespace Sys2Proof

/-- Bandwidth `BW` (00_scope.md R15). -/
inductive Bandwidth where
  | nb | mb | wb
  deriving DecidableEq, Repr, Inhabited

/-- Bandwidth group `BWC`: NBMB or WB (00_scope.md R15). -/
inductive BwClass where
  | nbmb | wb
  deriving DecidableEq, Repr, Inhabited

/-- Signal-activity class (00_scope.md R15). -/
inductive SigType where
  | inactive | unvoiced | voiced
  deriving DecidableEq, Repr, Inhabited

/-- Quantization-offset class (00_scope.md R15). -/
inductive QOff where
  | low | high
  deriving DecidableEq, Repr, Inhabited

/-- `P_CONTOUR_MODE` (42_ltp.md R173). -/
inductive ContourMode where
  | perSubframe | perFrame
  deriving DecidableEq, Repr, Inhabited

/-- `P_STABLE` (41_lpc.md R146): the default procedure, or another one of a block built with it, told apart by
a number; what the other one answers is free (`Config.otherStable`; log 6). -/
inductive StableProc where
  | default
  | other (n : Nat)
  deriving DecidableEq, Repr, Inhabited

/-- `P_CONTOUR_SEL(bw, ·)` (42_ltp.md R170): the classes of the lags `LAG_MIN(bw), LAG_MIN(bw) + 1, …` as far as
the list goes, and the class of every other lag. -/
structure ContourSel where
  classes : List Nat
  beyond : Nat
  deriving DecidableEq, Repr, Inhabited

/-- One value for each bandwidth. -/
structure PerBw (α : Type) where
  nb : α
  mb : α
  wb : α
  deriving DecidableEq, Repr, Inhabited

/-- One value for each bandwidth group. -/
structure PerClass (α : Type) where
  nbmb : α
  wb : α
  deriving DecidableEq, Repr, Inhabited

/-- One value for voiced frames and one for the others: index `v` of the tables that are chosen by
voicing (40_lsf.md R102, 43_excitation.md R191). -/
structure ByVoicing (α : Type) where
  unvoiced : α
  voiced : α
  deriving DecidableEq, Repr, Inhabited

/-- One value for each quantization-offset class. -/
structure ByQOff (α : Type) where
  low : α
  high : α
  deriving DecidableEq, Repr, Inhabited

/-- One value for each signal-activity class. -/
structure BySigType (α : Type) where
  inactive : α
  unvoiced : α
  voiced : α
  deriving DecidableEq, Repr, Inhabited

/-- An ICDF table: non-increasing, ending in 0 (20_memory.md R71). -/
abbrev Icdf := List Nat

/-- The fields of T that exist once for each bandwidth group (40_lsf.md R100, 41_lpc.md R140). -/
structure LsfBook where
  /-- `T.CB1_ICDF[bwc][v]` -/
  cb1Icdf : ByVoicing Icdf
  /-- `T.CB1_Q8[bwc][i][k]` -/
  cb1Q8 : List (List Nat)
  /-- `T.CB2_SEL[bwc][i][k]` -/
  cb2Sel : List (List Nat)
  /-- `T.CB2_ICDF[bwc][m]` -/
  cb2Icdf : List Icdf
  /-- `T.PRED_SEL[bwc][i][k]` -/
  predSel : List (List Nat)
  /-- `T.PRED_Q8[bwc][p][k]` -/
  predQ8 : List (List Nat)
  /-- `T.QSTEP_Q16[bwc]` -/
  qstepQ16 : Int
  /-- `T.NDELTA_MIN_Q15[bwc][k]`, `k = 0 .. D` -/
  ndeltaMinQ15 : List Int
  /-- `T.ORDER[bwc][k]` -/
  order : List Nat
  deriving DecidableEq, Repr, Inhabited

/-- The parameter record T and the named parameters (00_scope.md R5, 40_lsf.md R100, 41_lpc.md R140,
42_ltp.md R170, 43_excitation.md R198). -/
structure Params where
  nCb1 : Nat
  lsf : PerClass LsfBook
  extIcdf : Icdf
  interpIcdf : Icdf
  /-- `W_MAX` -/
  wMax : Nat
  /-- `P_INTERP_READ_FIRST` -/
  interpReadFirst : Bool
  /-- `T.COS_Q12[i]`, `i = 0 .. 128` -/
  cosQ12 : List Int
  /-- `P_STABLE` -/
  pStable : StableProc
  /-- `P_PITCH_SPLIT(bw)` -/
  pitchSplit : PerBw Bool
  pitchHighIcdf : Icdf
  pitchLowIcdf : PerBw Icdf
  pitchAbsIcdf : PerBw Icdf
  /-- `P_CONTOUR_MODE` -/
  contourMode : ContourMode
  /-- `P_CONTOUR_SEL` -/
  contourSel : PerBw ContourSel
  contourIcdf : List Icdf
  /-- `T.CONTOUR_CB[c][j][s]` -/
  contourCb : List (List (List Int))
  ltpPerIcdf : Icdf
  ltpFiltIcdf : List Icdf
  /-- `T.LTP_CB_Q7[p][i][t]` -/
  ltpCbQ7 : List (List (List Int))
  ltpScaleIcdf : Icdf
  ltpScaleQ14 : List Int
  seedIcdf : Icdf
  rateIcdf : ByVoicing Icdf
  /-- `T.PULSE_ICDF[r]`, `r = 0 .. 10` -/
  pulseIcdf : List Icdf
  /-- `T.SHELL_ICDF[len][p]`: row `h` serves `len = 2^(h+1)`, entry `p - 1` serves the count `p` -/
  shellIcdf : List (List Icdf)
  lsbIcdf : Icdf
  /-- `T.SIGN_ICDF[sig][q][m]` -/
  signIcdf : BySigType (ByQOff (List Icdf))
  /-- `T.QOFFSET_Q23[v][q]` -/
  qoffsetQ23 : ByVoicing (ByQOff Int)
  lcgA : Word
  lcgC : Word
  deriving DecidableEq, Repr, Inhabited

/-- The float operations whose result can be a NaN (44_synthesis.md R220). -/
inductive FpOp where
  | add | sub | mul | div
  deriving DecidableEq, Repr

/-! ### Free values

Nothing in Lean can evaluate one of these or prove a value of it. -/

/-- The OPEN contents of T (92_eei_decisions.md D27; log 3): only the fields the spec leaves OPEN are
taken from it. -/
opaque Config.openTables : Params

/-- What the cursor draws at its request number `n` when the environment has fixed no answer for it
(20_memory.md R71, R72; log 2). -/
opaque Config.cursorDraw : Nat → Nat

/-- The sign and payload bits of a NaN that a float operation makes, drawn by the counter `State.fresh`
for the operation and its operands (44_synthesis.md R220; log 7). -/
opaque Config.nanBits : Nat → FpOp → F32 → F32 → Word

/-- What a `w`-bit element holds after a value outside its range is stored to it, drawn by the counter
`State.fresh` (00_scope.md R8 gives no value; log 5). -/
opaque Config.storeBits : Nat → (w : Nat) → Int → BitVec w

/-- What a procedure other than the default one answers as `P_STABLE` for a Q12 vector (92_eei_decisions.md D40;
log 6). -/
opaque Config.otherStable : Nat → List Int → Bool

/-- The cosine-table entry of a negative index, drawn by the counter `State.fresh` (41_lpc.md R141 gives indices
0 to 127 only; log 25). -/
opaque Config.cosEntry : Nat → Int → Int

/-- What a sample view or residual reads as outside its index range, drawn by the counter `State.fresh`
(10_state.md R42 gives no value; log 8). -/
opaque Config.viewBits : Nat → Int → F32

end Sys2Proof
end

