-- ==== Sys2Proof/Syntax.lean ====
section
/-! DEFINITION. The commands, one constructor for each row of the opcode table (30_encoding.md R82). -/

namespace Sys2Proof

/-- A command. The operand of the four commands that take one is the plain unsigned 4-bit field ARG
(30_encoding.md R81). -/
inductive Instr where
  | resetState
  | frameBegin
  | lsfS1
  | lsfS2
  | lsfRecon
  | lsfStab
  | lsfInterp
  | lpcConvert (set : BitVec 4)
  | lpcRange (set : BitVec 4)
  | lpcGainlim (set : BitVec 4)
  | pitchLags
  | ltpCoefs
  | ltpScale
  | excSeed
  | excRate
  | excCounts
  | excShell
  | excLsb
  | excSigns
  | excRecon
  | synth (sub : BitVec 4)
  | frameEnd
  | decodeFrame
  deriving DecidableEq, Repr

end Sys2Proof
end

