-- ==== Sys2Proof/WellFormed.lean ====
section
/-! DEFINITION. Which operands a command admits: `ARGS(opc)` of 30_encoding.md R81. -/

namespace Sys2Proof

/-- The operand lies in `ARGS(opc)`: the set is 0 or 1, the subframe is 0 to 3 (30_encoding.md R81). -/
def Instr.wf : Instr → Bool
  | .lpcConvert set | .lpcRange set | .lpcGainlim set => decide (set.toNat < 2)
  | .synth sub => decide (sub.toNat < 4)
  | .resetState | .frameBegin | .lsfS1 | .lsfS2 | .lsfRecon | .lsfStab | .lsfInterp
  | .pitchLags | .ltpCoefs | .ltpScale | .excSeed | .excRate | .excCounts | .excShell
  | .excLsb | .excSigns | .excRecon | .frameEnd | .decodeFrame => true

end Sys2Proof
end

