-- ==== Sys2Proof/Decode.lean ====
section
/-! DEFINITION. The decoder of a command word, total on every word, and the encoder
(30_encoding.md R80 to R83, R86). -/

namespace Sys2Proof

/-- Why a word is no command; each is ILLEGAL_COMMAND (30_encoding.md R81, R83). -/
inductive Reject where
  /-- RSV (31:12) is not 0. -/
  | reservedBits
  /-- OPC is in no row of the opcode map. -/
  | unlistedOpcode
  /-- ARG is not in `ARGS(OPC)`. -/
  | argument
  deriving DecidableEq, Repr

/-- What decoding a word answers. -/
inductive Decoded where
  | ok (i : Instr)
  | reject (r : Reject)
  deriving DecidableEq, Repr

/-- A row of the opcode map: the opcode, how many ARG values are legal (from 0 up), and the command. -/
structure OpRow where
  opc : Nat
  args : Nat
  build : BitVec 4 → Instr

/-- The opcode map (30_encoding.md R82) with `ARGS` of 30_encoding.md R81. -/
def opcodeMap : List OpRow :=
  [⟨0x01, 1, fun _ => .resetState⟩, ⟨0x02, 1, fun _ => .frameBegin⟩,
   ⟨0x10, 1, fun _ => .lsfS1⟩, ⟨0x11, 1, fun _ => .lsfS2⟩, ⟨0x12, 1, fun _ => .lsfRecon⟩,
   ⟨0x13, 1, fun _ => .lsfStab⟩, ⟨0x14, 1, fun _ => .lsfInterp⟩,
   ⟨0x20, 2, .lpcConvert⟩, ⟨0x21, 2, .lpcRange⟩, ⟨0x22, 2, .lpcGainlim⟩,
   ⟨0x30, 1, fun _ => .pitchLags⟩, ⟨0x31, 1, fun _ => .ltpCoefs⟩, ⟨0x32, 1, fun _ => .ltpScale⟩,
   ⟨0x40, 1, fun _ => .excSeed⟩, ⟨0x41, 1, fun _ => .excRate⟩, ⟨0x42, 1, fun _ => .excCounts⟩,
   ⟨0x43, 1, fun _ => .excShell⟩, ⟨0x44, 1, fun _ => .excLsb⟩, ⟨0x45, 1, fun _ => .excSigns⟩,
   ⟨0x46, 1, fun _ => .excRecon⟩,
   ⟨0x50, 4, .synth⟩, ⟨0x51, 1, fun _ => .frameEnd⟩, ⟨0x7F, 1, fun _ => .decodeFrame⟩]

/-- Decode a command word (30_encoding.md R81): RSV first, then OPC, then ARG. -/
def decode (w : Word) : Decoded :=
  if w.toNat / 2 ^ 12 ≠ 0 then .reject .reservedBits
  else
    match opcodeMap.find? (fun r => r.opc == w.toNat % 2 ^ 8) with
    | none => .reject .unlistedOpcode
    | some r =>
      let arg := w.toNat / 2 ^ 8 % 2 ^ 4
      if arg < r.args then .ok (r.build (BitVec.ofNat 4 arg)) else .reject .argument

/-- The opcode of a command (30_encoding.md R82). -/
def opcodeOf : Instr → BitVec 8
  | .resetState => 0x01
  | .frameBegin => 0x02
  | .lsfS1 => 0x10
  | .lsfS2 => 0x11
  | .lsfRecon => 0x12
  | .lsfStab => 0x13
  | .lsfInterp => 0x14
  | .lpcConvert _ => 0x20
  | .lpcRange _ => 0x21
  | .lpcGainlim _ => 0x22
  | .pitchLags => 0x30
  | .ltpCoefs => 0x31
  | .ltpScale => 0x32
  | .excSeed => 0x40
  | .excRate => 0x41
  | .excCounts => 0x42
  | .excShell => 0x43
  | .excLsb => 0x44
  | .excSigns => 0x45
  | .excRecon => 0x46
  | .synth _ => 0x50
  | .frameEnd => 0x51
  | .decodeFrame => 0x7F

/-- The operand field of a command: 0 where it takes none (30_encoding.md R80). -/
def argOf : Instr → BitVec 4
  | .lpcConvert set | .lpcRange set | .lpcGainlim set => set
  | .synth sub => sub
  | .resetState | .frameBegin | .lsfS1 | .lsfS2 | .lsfRecon | .lsfStab | .lsfInterp
  | .pitchLags | .ltpCoefs | .ltpScale | .excSeed | .excRate | .excCounts | .excShell
  | .excLsb | .excSigns | .excRecon | .frameEnd | .decodeFrame => 0

/-- The word of a command: `(arg << 8) | OPC` (30_encoding.md R84). -/
def encode (i : Instr) : Word :=
  (argOf i).setWidth 32 <<< 8 ||| (opcodeOf i).setWidth 32

/-- The four bytes of a word, the least significant at the lowest address (20_memory.md R63). -/
def bytesOfWord (w : Word) : List (BitVec 8) :=
  [w.extractLsb' 0 8, w.extractLsb' 8 8, w.extractLsb' 16 8, w.extractLsb' 24 8]

/-- The word of four bytes, the least significant at the lowest address (20_memory.md R63). -/
def wordOfBytes (b0 b1 b2 b3 : BitVec 8) : Word :=
  b3 ++ b2 ++ b1 ++ b0

/-- Decode the command at the head of a list of bytes and give the rest back; fewer than four bytes hold
no command (30_encoding.md R80: there is no other length). -/
def decodeBytes : List (BitVec 8) → Option (Decoded × List (BitVec 8))
  | b0 :: b1 :: b2 :: b3 :: rest => some (decode (wordOfBytes b0 b1 b2 b3), rest)
  | [] | [_] | [_, _] | [_, _, _] => none

/-- The command word whose `nbits` low bits are `w` and whose other bits are 0, as the opcode table
numbers bits. -/
def tableWord (nbits w : Nat) : Word :=
  BitVec.ofNat 32 (w % 2 ^ nbits)

/-- The command the decoder reads from such a word, or none where it refuses it. -/
def decodeTableWord (nbits w : Nat) : Option Instr :=
  match decodeBytes (bytesOfWord (tableWord nbits w)) with
  | some (.ok i, _) => some i
  | some (.reject _, _) | none => none

end Sys2Proof
end

