-- ==== Sys2Proof/Machine/Arith.lean ====
section
/-! DEFINITION. The integer operators of the pseudocode (00_scope.md R8, R9) and the arrays of a fixed
length that State is made of. -/

namespace Sys2Proof.Machine

/-- `v >> n`: floor of `v / 2^n`, for negative `v` too (00_scope.md R9). -/
def asr (v : Int) (n : Nat) : Int := v / ((2 ^ n : Nat) : Int)

/-- `v << n` (00_scope.md R9). -/
def shl (v : Int) (n : Nat) : Int := v * ((2 ^ n : Nat) : Int)

/-- `a / b` on integers, truncated toward zero (00_scope.md R9). -/
def tdiv (a b : Int) : Int := Int.tdiv a b

/-- `clamp(lo, v, hi)` on integers (00_scope.md R9). -/
def clampI (lo v hi : Int) : Int := min (max v lo) hi

/-- `sign(v)` (00_scope.md R9). -/
def signI (v : Int) : Int := if v < 0 then -1 else if v = 0 then 0 else 1

/-- `abs(v)` (00_scope.md R9). -/
def absI (v : Int) : Int := if v < 0 then -v else v

/-- `ilog(x)`: 0 for `x ≤ 0`, else `floor(log2(x)) + 1` (00_scope.md R9). -/
def ilog (x : Int) : Nat := if x ≤ 0 then 0 else Nat.log2 x.toNat + 1

/-- The indices `a, a + 1, …, b - 1`, ascending; none if `b ≤ a`. -/
def indices (a b : Int) : List Int := (List.range (b - a).toNat).map fun (k : Nat) => a + (k : Int)

/-- The sum of a list of integers, exact (00_scope.md R14). -/
def sumI (xs : List Int) : Int := xs.foldl (· + ·) 0

/-! ### Arrays -/

/-- Element `i` of an array, `d` outside it. -/
def rd {α : Type} {n : Nat} (v : Vector α n) (i : Nat) (d : α) : α := v.toList.getD i d

/-- The array whose element `i` is `f i`. -/
def build {α : Type} (n : Nat) (f : Nat → α) : Vector α n :=
  ⟨⟨(List.range n).map f⟩, by simp⟩

/-- The array with element `i` replaced; unchanged where it has no element `i`. -/
def put {α : Type} {n : Nat} (v : Vector α n) (i : Nat) (x : α) : Vector α n :=
  ⟨⟨v.toList.set i x⟩, by simp⟩

/-- The array with its first elements replaced by those of `xs`, the others kept. -/
def putFirst {α : Type} {n : Nat} (v : Vector α n) (xs : List α) : Vector α n :=
  ⟨⟨(xs ++ v.toList.drop xs.length).take n⟩, by
    simp only [List.size_toArray, List.length_take, List.length_append, List.length_drop,
      Vector.length_toList]
    omega⟩

/-- Element `i` of an array of `w`-bit two's-complement elements, as an integer. -/
def rdI {w n : Nat} (v : Vector (BitVec w) n) (i : Nat) : Int := (rd v i 0).toInt

/-- The first `k` elements of such an array, as integers. -/
def firstI {w n : Nat} (v : Vector (BitVec w) n) (k : Nat) : List Int :=
  (List.range k).map (rdI v)

end Sys2Proof.Machine
end

