-- ==== Sys2Proof/Machine/Tables.lean ====
section
/-! DEFINITION. The sizes that depend on the bandwidth (00_scope.md R5), the well-formedness of the
parameter record T (20_memory.md R71, 40_lsf.md R101, 43_excitation.md R192 and the shapes of the tables),
the type of well-formed records, and the record of a block right after it is built. -/

namespace Sys2Proof.Machine

/-! ### Sizes -/

/-- `BWC(bw)` (00_scope.md R15). -/
def bwClass : Bandwidth → BwClass
  | .nb | .mb => .nbmb
  | .wb => .wb

/-- `D_LPC` of a bandwidth group (00_scope.md R5). -/
def dOfClass : BwClass → Nat
  | .nbmb => 10
  | .wb => 16

/-- `D_LPC(bw)` (00_scope.md R5). -/
def dLpc (bw : Bandwidth) : Nat := dOfClass (bwClass bw)

/-- `N_SF(bw)`: samples per subframe (00_scope.md R5). -/
def nSf : Bandwidth → Nat
  | .nb => 40
  | .mb => 60
  | .wb => 80

/-- `N_FRAME(bw)` (00_scope.md R5). -/
def nFrame (bw : Bandwidth) : Nat := 4 * nSf bw

/-- `N_SHELL(bw)` (00_scope.md R5). -/
def nShell : Bandwidth → Nat
  | .nb => 10
  | .mb => 15
  | .wb => 20

/-- `LAG_MIN(bw)` (00_scope.md R5). -/
def lagMin : Bandwidth → Nat
  | .nb => 16
  | .mb => 24
  | .wb => 32

/-- `LAG_MAX(bw)` (00_scope.md R5). -/
def lagMax : Bandwidth → Nat
  | .nb => 144
  | .mb => 216
  | .wb => 288

/-- `LAG_SCALE(bw)` (00_scope.md R5). -/
def lagScale : Bandwidth → Nat
  | .nb => 4
  | .mb => 6
  | .wb => 8

/-- `H_OUT` (00_scope.md R5). -/
def hOut : Nat := 306

/-- `FRAME_NS` (00_scope.md R5). -/
def frameNs : Nat := 20000000

/-! ### Selection -/

/-- The entry of a bandwidth. -/
def forBw {α : Type} (t : PerBw α) : Bandwidth → α
  | .nb => t.nb
  | .mb => t.mb
  | .wb => t.wb

/-- The entry of a bandwidth group. -/
def forClass {α : Type} (t : PerClass α) : BwClass → α
  | .nbmb => t.nbmb
  | .wb => t.wb

/-- The entry for voiced frames (`v = 1`) or the others (`v = 0`). -/
def forVoicing {α : Type} (t : ByVoicing α) : SigType → α
  | .inactive | .unvoiced => t.unvoiced
  | .voiced => t.voiced

/-- The entry of a quantization-offset class. -/
def forQOff {α : Type} (t : ByQOff α) : QOff → α
  | .low => t.low
  | .high => t.high

/-- The entry of a signal-activity class. -/
def forSigType {α : Type} (t : BySigType α) : SigType → α
  | .inactive => t.inactive
  | .unvoiced => t.unvoiced
  | .voiced => t.voiced

/-! ### ICDF tables -/

/-- The value before entry `v`: 256 before entry 0 (20_memory.md R71). -/
def icdfAbove (tab : Icdf) (v : Nat) : Nat := if v = 0 then 256 else tab.getD (v - 1) 0

/-- Answer `v` is an index of the table whose probability is positive (20_memory.md R71). -/
def admissible (tab : Icdf) (v : Nat) : Bool :=
  decide (v < tab.length) && decide (tab.getD v 0 < icdfAbove tab v)

/-- The form of an ICDF table of `m` entries: non-increasing, each in 0..255, the last 0
(20_memory.md R71). -/
def icdfWf (m : Nat) (tab : Icdf) : Bool :=
  decide (tab.length = m) && tab.all (fun x => decide (x ≤ 255)) &&
  (List.range (m - 1)).all (fun v => decide (tab.getD (v + 1) 0 ≤ tab.getD v 0)) &&
  decide (0 < m) && decide (tab.getD (m - 1) 1 = 0)

/-! ### Well-formedness -/

/-- `m` rows, row `i` as `ok i` says. -/
def rowsWf {α : Type} (m : Nat) (ok : Nat → α → Bool) (rows : List α) : Bool :=
  decide (rows.length = m) && rows.zipIdx.all (fun r => ok r.2 r.1)

/-- A list of `m` numbers below `b`. -/
def numsWf (m b : Nat) (xs : List Nat) : Bool :=
  decide (xs.length = m) && xs.all (fun x => decide (x < b))

/-- A list of `m` integers of the range of a `w`-bit two's-complement element. -/
def intsWf (m w : Nat) (xs : List Int) : Bool :=
  decide (xs.length = m) &&
  xs.all (fun x => decide (-(2 ^ (w - 1) : Nat) ≤ x) && decide (x < (2 ^ (w - 1) : Nat)))

/-- A stage-1 vector: `0 < cb[0] < cb[1] < … < cb[D-1] < 256` (40_lsf.md R101). -/
def cb1Wf (d : Nat) (cb : List Nat) : Bool :=
  numsWf d 256 cb && decide (0 < cb.getD 0 0) &&
  (List.range (d - 1)).all (fun k => decide (cb.getD k 0 < cb.getD (k + 1) 0))

/-- Minimum spacings: `D + 1` of them, each at least 1, of sum at most 32768 (40_lsf.md R101). -/
def ndeltaWf (d : Nat) (xs : List Int) : Bool :=
  decide (xs.length = d + 1) && xs.all (fun x => decide (1 ≤ x)) && decide (sumI xs ≤ 32768)

/-- A permutation of `0 .. d-1` (41_lpc.md R140). -/
def permWf (d : Nat) (xs : List Nat) : Bool :=
  numsWf d d xs && (List.range d).all (fun j => xs.contains j)

/-- The tables of one bandwidth group (40_lsf.md R100, R101, 41_lpc.md R140). -/
def bookWf (nCb1 d : Nat) (b : LsfBook) : Bool :=
  icdfWf nCb1 b.cb1Icdf.unvoiced && icdfWf nCb1 b.cb1Icdf.voiced &&
  rowsWf nCb1 (fun _ => cb1Wf d) b.cb1Q8 &&
  rowsWf nCb1 (fun _ => numsWf d 8) b.cb2Sel &&
  rowsWf 8 (fun _ => icdfWf 9) b.cb2Icdf &&
  rowsWf nCb1 (fun _ => numsWf (d - 1) 2) b.predSel &&
  rowsWf 2 (fun _ => numsWf (d - 1) 256) b.predQ8 &&
  ndeltaWf d b.ndeltaMinQ15 && permWf d b.order

/-- The primary-lag tables and the contour selector of one bandwidth (42_ltp.md R170, R171): the table the coding of
this bandwidth uses is an ICDF, of any length where the lag is not split, and the selector answers an existing
class for every lag. -/
def lagTablesWf (p : Params) (bw : Bandwidth) : Bool :=
  (if forBw p.pitchSplit bw then icdfWf (lagScale bw) (forBw p.pitchLowIcdf bw)
   else icdfWf (forBw p.pitchAbsIcdf bw).length (forBw p.pitchAbsIcdf bw)) &&
  (forBw p.contourSel bw).classes.all (fun c => decide (c < p.contourIcdf.length)) &&
  decide ((forBw p.contourSel bw).beyond < p.contourIcdf.length)

/-- The contour tables: for every class an ICDF of `J(c)` entries and `J(c)` rows of four int8 offsets
(42_ltp.md R170; log 21 for the vectors that use wider ones). -/
def contourWf (p : Params) : Bool :=
  p.contourIcdf.all (fun t => icdfWf t.length t) &&
  rowsWf p.contourIcdf.length
    (fun c rows => rowsWf (p.contourIcdf.getD c []).length (fun _ => intsWf 4 8) rows) p.contourCb

/-- The number of filters of a periodicity level (42_ltp.md R170). -/
def filterCount (level : Nat) : Nat := [8, 16, 32].getD level 0

/-- The LTP tables (42_ltp.md R170): three levels, of 8, 16 and 32 filters, five int8 taps a row. -/
def ltpWf (p : Params) : Bool :=
  icdfWf 3 p.ltpPerIcdf &&
  rowsWf 3 (fun l => icdfWf (filterCount l)) p.ltpFiltIcdf &&
  rowsWf 3 (fun l => rowsWf (filterCount l) (fun _ => intsWf 5 8)) p.ltpCbQ7 &&
  icdfWf 3 p.ltpScaleIcdf && intsWf 3 16 p.ltpScaleQ14

/-- The sign tables of one signal-activity class. -/
def signsWf (t : ByQOff (List Icdf)) : Bool :=
  rowsWf 7 (fun _ => icdfWf 2) t.low && rowsWf 7 (fun _ => icdfWf 2) t.high

/-- The excitation tables (43_excitation.md R198, R192): rows 0..9 of the pulse tables have 18 entries,
row 10 has at most 17 and so cannot answer 17, and the shell table of count `p` has `p + 1` entries. -/
def excWf (p : Params) : Bool :=
  icdfWf 4 p.seedIcdf && icdfWf 9 p.rateIcdf.unvoiced && icdfWf 9 p.rateIcdf.voiced &&
  rowsWf 11 (fun r t => if r < 10 then icdfWf 18 t
    else icdfWf t.length t && decide (t.length ≤ 17)) p.pulseIcdf &&
  rowsWf 4 (fun _ rows => rowsWf 16 (fun k t => icdfWf (k + 2) t) rows) p.shellIcdf &&
  icdfWf 2 p.lsbIcdf &&
  signsWf p.signIcdf.inactive && signsWf p.signIcdf.unvoiced && signsWf p.signIcdf.voiced

/-- A parameter record the block can be built with (40_lsf.md R101, 43_excitation.md R192,
60_exceptions.md R309; log 16). -/
def paramsWf (p : Params) : Bool :=
  decide (p.nCb1 ≤ 256) && bookWf p.nCb1 10 p.lsf.nbmb && bookWf p.nCb1 16 p.lsf.wb &&
  icdfWf 7 p.extIcdf && icdfWf (p.wMax + 1) p.interpIcdf && decide (p.wMax ≤ 255) &&
  intsWf 129 16 p.cosQ12 && icdfWf 32 p.pitchHighIcdf &&
  lagTablesWf p .nb && lagTablesWf p .mb && lagTablesWf p .wb &&
  contourWf p && ltpWf p && excWf p

/-! ### Default contents (40_lsf.md R100, 41_lpc.md R140, 42_ltp.md R170, 43_excitation.md R198) -/

/-- The table with the default contents in every field the spec gives contents or a value for, and `free`
in the fields the spec leaves OPEN. -/
def specified (free : Params) : Params :=
  { free with
    nCb1 := 32
    lsf :=
      { nbmb := { free.lsf.nbmb with
          qstepQ16 := 11796
          ndeltaMinQ15 := [250, 3, 6, 3, 3, 3, 4, 3, 3, 3, 461]
          order := [0, 9, 6, 3, 4, 5, 8, 1, 2, 7] }
        wb := { free.lsf.wb with
          qstepQ16 := 9830
          ndeltaMinQ15 := [100, 3, 40, 3, 3, 3, 5, 14, 14, 10, 11, 3, 8, 9, 7, 3, 347]
          order := [0, 15, 8, 7, 4, 11, 12, 3, 2, 13, 10, 5, 6, 9, 14, 1] } }
    extIcdf := [100, 40, 16, 7, 3, 1, 0]
    wMax := 3
    interpReadFirst := false
    pStable := .default
    pitchSplit := ⟨true, true, true⟩
    contourMode := .perSubframe
    ltpScaleQ14 := [15565, 12288, 8192]
    seedIcdf := [192, 128, 64, 0]
    pulseIcdf := free.pulseIcdf.take 10 ++ [(free.pulseIcdf.getD 9 []).tail]
    lsbIcdf := [120, 0]
    qoffsetQ23 := ⟨⟨25, 60⟩, ⟨8, 25⟩⟩
    lcgA := 196314165
    lcgC := 907633515 }

/-- The ICDF of `m` nearly equally likely symbols (95_test_vectors.md section 0: "for example the uniform
one"). -/
def uniformIcdf (m : Nat) : Icdf := (List.range m).map fun v => 256 * (m - 1 - v) / m

/-- The candidate for `T.COS_Q12`, entries 0 to 64 (41_lpc.md R140: recalled, not verified; log 20). -/
def cosHalf : List Int :=
  [4096, 4095, 4091, 4085, 4076, 4065, 4052, 4036, 4017, 3997, 3973, 3948, 3920, 3889, 3857,
   3822, 3784, 3745, 3703, 3659, 3613, 3564, 3513, 3461, 3406, 3349, 3290, 3229, 3166, 3102,
   3035, 2967, 2896] ++
  [2824, 2751, 2676, 2599, 2520, 2440, 2359, 2276, 2191, 2106, 2019, 1931,
   1842, 1751, 1660, 1568, 1474, 1380, 1285, 1189, 1093, 995, 897, 799, 700, 601, 501, 401,
   301, 201, 101, 0]

/-- The candidate table: `T.COS_Q12[128 - i] = -T.COS_Q12[i]` (41_lpc.md R140). -/
def cosCandidate : List Int := cosHalf ++ (cosHalf.take 64).reverse.map (- ·)

/-- The OPEN fields of the test fixture T_test (95_test_vectors.md section 0) for one bandwidth group. -/
def fixtureBook (cb : List Nat) : LsfBook where
  cb1Icdf := ⟨uniformIcdf 32, uniformIcdf 32⟩
  cb1Q8 := List.replicate 32 cb
  cb2Sel := List.replicate 32 (List.replicate cb.length 0)
  cb2Icdf := List.replicate 8 (uniformIcdf 9)
  predSel := List.replicate 32 (List.replicate (cb.length - 1) 0)
  predQ8 := List.replicate 2 (List.replicate (cb.length - 1) 128)
  qstepQ16 := 0
  ndeltaMinQ15 := []
  order := []

/-- The OPEN fields of the test fixture T_test (95_test_vectors.md section 0). -/
def fixtureOpen : Params where
  nCb1 := 0
  lsf := ⟨fixtureBook [23, 47, 70, 93, 116, 140, 163, 186, 209, 233],
    fixtureBook [15, 30, 45, 60, 75, 90, 105, 120, 135, 150, 165, 180, 195, 210, 225, 240]⟩
  extIcdf := []
  interpIcdf := uniformIcdf 4
  wMax := 0
  interpReadFirst := false
  cosQ12 := cosCandidate
  pStable := .default
  pitchSplit := ⟨true, true, true⟩
  pitchHighIcdf := uniformIcdf 32
  pitchLowIcdf := ⟨uniformIcdf 4, uniformIcdf 6, uniformIcdf 8⟩
  pitchAbsIcdf := ⟨[0], [0], [0]⟩
  contourMode := .perSubframe
  contourSel := ⟨⟨[], 0⟩, ⟨[], 0⟩, ⟨[], 0⟩⟩
  contourIcdf := [uniformIcdf 3]
  contourCb := [[[0, 0, 0, 0], [2, 1, 0, -1], [-2, -1, 0, 1]]]
  ltpPerIcdf := uniformIcdf 3
  ltpFiltIcdf := [uniformIcdf 8, uniformIcdf 16, uniformIcdf 32]
  ltpCbQ7 := [List.replicate 8 [0, 0, 64, 0, 0], List.replicate 16 [1, 2, 90, 2, 1],
    List.replicate 32 [-4, 8, 100, 8, -4]]
  ltpScaleIcdf := uniformIcdf 3
  ltpScaleQ14 := []
  seedIcdf := []
  rateIcdf := ⟨uniformIcdf 9, uniformIcdf 9⟩
  pulseIcdf := List.replicate 10 (uniformIcdf 18)
  shellIcdf := List.replicate 4 ((List.range 16).map fun k => uniformIcdf (k + 2))
  lsbIcdf := []
  signIcdf := ⟨⟨List.replicate 7 (uniformIcdf 2), List.replicate 7 (uniformIcdf 2)⟩,
    ⟨List.replicate 7 (uniformIcdf 2), List.replicate 7 (uniformIcdf 2)⟩,
    ⟨List.replicate 7 (uniformIcdf 2), List.replicate 7 (uniformIcdf 2)⟩⟩
  qoffsetQ23 := ⟨⟨0, 0⟩, ⟨0, 0⟩⟩
  lcgA := 0
  lcgC := 0

/-- The test fixture T_test. -/
def fixture : Params := specified fixtureOpen

theorem fixture_wf : paramsWf fixture = true := by decide +kernel

/-- The parameter records a block can be built with: those that pass the checks. A record that fails them
is no configuration of the block (60_exceptions.md R309), so State cannot hold one. -/
abbrev Tables := { p : Params // paramsWf p = true }

/-- T_test as a record of the block. -/
def fixtureTables : Tables := ⟨Machine.fixture, fixture_wf⟩

/-- The record of the block as State.reset holds it (log 3, log 4): the default contents where the spec
gives them and free values where it says OPEN. The free values range over every choice that passes the
checks; for one that does not, the record is T_test, which does. -/
def builtTables : Tables :=
  if h : paramsWf (specified Config.openTables) = true then ⟨specified Config.openTables, h⟩
  else fixtureTables

end Sys2Proof.Machine
end

