-- ==== Sys2Proof/Machine/State.lean ====
section
/-! DEFINITION. The state of the block (10_state.md), the accesses of its host, the reasons a step can stop,
and the state right after reset. -/

namespace Sys2Proof.Machine

/-- What arrives at the block's host port. -/
inductive BusOp where
  /-- The reset input is asserted (70_reset_and_hazards.md R330). -/
  | resetPin
  /-- A read of `size` bytes at a byte address of the 14-bit register space (20_memory.md R60, R75). -/
  | read (size : Nat) (addr : BitVec 14)
  /-- A write of `size` bytes; `value` is the word written by a 4-byte write. -/
  | write (size : Nat) (addr : BitVec 14) (value : Word)
  deriving DecidableEq, Repr

/-- The entropy cursor as the block sees it (20_memory.md R70 to R72): the answers the environment has fixed
for the requests to come, and the number of requests served. A request past the fixed answers gets a free
draw (log 2). -/
structure Cursor where
  script : List Nat
  served : Nat
  deriving DecidableEq, Repr

/-- Persistent decoder state (10_state.md R30 to R33). -/
structure Decoder where
  /-- S.PREV_NLSF_Q15 -/
  prevNlsf : Vector (BitVec 16) 16
  /-- S.HAVE_DECODED -/
  haveDecoded : Bool
  /-- S.PREV_BW -/
  prevBw : Bandwidth
  /-- S.LPC_HIST: `lpcHist[k] = lpc[-1-k]` -/
  lpcHist : Vector F32 16
  /-- S.OUT_HIST: `outHist[k] = out[-1-k]` -/
  outHist : Vector F32 306
  deriving DecidableEq, Repr

/-- Latched frame parameters (10_state.md R34 to R36). S.DLPC, S.NSF, S.NFRAME and S.NSHELL are functions of
`bw`. -/
structure Latched where
  /-- S.BW -/
  bw : Bandwidth
  /-- S.SIGTYPE -/
  sigType : SigType
  /-- S.QOFF -/
  qoff : QOff
  /-- S.GAIN_Q16 -/
  gainQ16 : Vector (BitVec 32) 4
  /-- S.FIRST -/
  first : Bool
  deriving DecidableEq, Repr

/-- Per-frame working state (10_state.md R37 to R41; log 17 for the elements without a width). -/
structure Work where
  /-- S.I1 -/
  i1 : BitVec 8
  /-- S.I2 -/
  i2 : Vector (BitVec 8) 16
  /-- S.RES_Q10 -/
  resQ10 : Vector (BitVec 32) 16
  /-- S.NLSF2_Q15 (n2) -/
  nlsf2 : Vector (BitVec 16) 16
  /-- S.NLSF1_Q15 (n1) -/
  nlsf1 : Vector (BitVec 16) 16
  /-- S.W_Q2 -/
  wQ2 : BitVec 8
  /-- S.INTERP -/
  interp : Bool
  /-- S.A32_Q17[set] -/
  a32 : Vector (Vector (BitVec 32) 16) 2
  /-- S.A_Q12[set] -/
  aQ12 : Vector (Vector (BitVec 16) 16) 2
  /-- S.LAG -/
  lag : BitVec 16
  /-- S.PITCH_LAG -/
  pitchLag : Vector (BitVec 16) 4
  /-- S.LTP_PER, 0..2 -/
  ltpPer : Nat
  /-- S.LTP_IDX -/
  ltpIdx : Vector (BitVec 8) 4
  /-- S.B_Q7[s][t] -/
  bQ7 : Vector (Vector (BitVec 8) 5) 4
  /-- S.LTP_SCALE_Q14 -/
  ltpScaleQ14 : BitVec 16
  /-- S.SEED, 0..3 -/
  seed : Nat
  /-- S.RATE_LEVEL, 0..8 -/
  rateLevel : Nat
  /-- S.PULSE_COUNT, 0..16 each -/
  pulseCount : Vector Nat 20
  /-- S.LSB_COUNT, 0..10 each -/
  lsbCount : Vector Nat 20
  /-- S.E_RAW -/
  eRaw : Vector (BitVec 32) 320
  /-- S.E_Q23 -/
  eQ23 : Vector (BitVec 32) 320
  /-- S.RESBUF: index `i` of the spec, -306 .. 319, is element `i + 306` -/
  resBuf : Vector F32 626
  /-- S.LPCBUF -/
  lpcBuf : Vector F32 320
  /-- S.OUT -/
  out : Vector F32 320
  deriving DecidableEq, Repr

/-- The state: the host-visible registers (10_state.md R22 to R29), the decoder's state, and the model's own
fields (the host port, the cursor, the parameter record and the counter of free values). -/
structure State where
  /-- CTRL.IRQ_EN -/
  irqEn : Bool
  /-- STATUS.DONE -/
  done : Bool
  /-- STATUS.ERR -/
  err : Bool
  /-- STATUS.ERRCODE -/
  errCode : BitVec 4
  cfg : Word
  durationNs : Word
  outCap : Word
  frameInfo : Word
  gainIn : Vector Word 4
  phase : Word
  dec : Decoder
  frame : Latched
  work : Work
  /-- The host accesses still to come, the next one first (log 1). -/
  bus : List BusOp
  /-- The word the last host read returned (log 1). -/
  rdata : Word
  cursor : Cursor
  /-- T and the named parameters: fixed when the block is built (70_reset_and_hazards.md R333). -/
  tables : Tables
  /-- The counter free values are drawn with (log 5, log 7, log 8). -/
  fresh : Nat
  deriving DecidableEq, Repr

/-- The block has no machine fault: an error ends a command and is a next state (60_exceptions.md R310,
R312; log 13). Nobody raises a fault. -/
inductive Fault where
  deriving DecidableEq, Repr

/-- Why the model gives a step no meaning. -/
inductive Refusal where
  /-- Raised by the arm of a command that is not modelled yet; safe. No arm raises it. -/
  | notModelled (mnemonic : String)
  /-- Raised by the host port for an access that is not 4 bytes wide or not at a multiple of 4: the spec
  says the model refuses it (20_memory.md R75, 93_implementation_defined.md I4); safe. -/
  | notWordAccess
  deriving DecidableEq, Repr

/-- What a step answers. -/
abbrev Outcome := Host.Outcome State Fault Refusal

/-- Persistent state after reset (10_state.md R45). -/
def Decoder.reset : Decoder where
  prevNlsf := Vector.replicate 16 0
  haveDecoded := false
  prevBw := .nb
  lpcHist := Vector.replicate 16 0
  outHist := Vector.replicate 306 0

/-- Latched parameters after reset (10_state.md R45). -/
def Latched.reset : Latched where
  bw := .nb
  sigType := .inactive
  qoff := .low
  gainQ16 := Vector.replicate 4 0
  first := true

/-- Working state after reset and after FRAME_BEGIN: 0 and +0.0, S.LTP_SCALE_Q14 = 16384
(10_state.md R45, 45_frame_control.md R240). -/
def Work.reset : Work where
  i1 := 0
  i2 := Vector.replicate 16 0
  resQ10 := Vector.replicate 16 0
  nlsf2 := Vector.replicate 16 0
  nlsf1 := Vector.replicate 16 0
  wQ2 := 0
  interp := false
  a32 := Vector.replicate 2 (Vector.replicate 16 0)
  aQ12 := Vector.replicate 2 (Vector.replicate 16 0)
  lag := 0
  pitchLag := Vector.replicate 4 0
  ltpPer := 0
  ltpIdx := Vector.replicate 4 0
  bQ7 := Vector.replicate 4 (Vector.replicate 5 0)
  ltpScaleQ14 := 16384
  seed := 0
  rateLevel := 0
  pulseCount := Vector.replicate 20 0
  lsbCount := Vector.replicate 20 0
  eRaw := Vector.replicate 320 0
  eQ23 := Vector.replicate 320 0
  resBuf := Vector.replicate 626 0
  lpcBuf := Vector.replicate 320 0
  out := Vector.replicate 320 0

/-- The block right after hardware reset (10_state.md R45, 70_reset_and_hazards.md R330), with no host access
to come and no cursor answer fixed. -/
def State.reset : State where
  irqEn := false
  done := false
  err := false
  errCode := 0
  cfg := 0
  durationNs := 0
  outCap := 0
  frameInfo := 0
  gainIn := Vector.replicate 4 0
  phase := 0
  dec := Decoder.reset
  frame := Latched.reset
  work := Work.reset
  bus := []
  rdata := 0
  cursor := ⟨[], 0⟩
  tables := builtTables
  fresh := 0

end Sys2Proof.Machine
end

