-- ==== Sys2Proof/Machine/Flags.lean ====
section
/-! DEFINITION. The block's flags: the PHASE bits (10_state.md R29), the STATUS fields (10_state.md R22), the
error codes (60_exceptions.md R300) and the interrupt line (60_exceptions.md R315). -/

namespace Sys2Proof.Machine

/-! ### PHASE -/

/-- A PHASE bit: one for each command of a frame (10_state.md R29). -/
inductive PhaseBit where
  | f | s1 | s2 | recon | stab | interp
  | conv (set : Fin 2) | range (set : Fin 2) | gain (set : Fin 2)
  | pitch | ltpc | ltps
  | seed | rate | counts | shell | lsb | signs | erecon
  | syn (sub : Fin 4)
  deriving DecidableEq, Repr

/-- The number of a PHASE bit (10_state.md R29). -/
def phaseIndex : PhaseBit → Nat
  | .f => 0
  | .s1 => 1
  | .s2 => 2
  | .recon => 3
  | .stab => 4
  | .interp => 5
  | .conv set => 6 + 3 * set.val
  | .range set => 7 + 3 * set.val
  | .gain set => 8 + 3 * set.val
  | .pitch => 12
  | .ltpc => 13
  | .ltps => 14
  | .seed => 15
  | .rate => 16
  | .counts => 17
  | .shell => 18
  | .lsb => 19
  | .signs => 20
  | .erecon => 21
  | .syn sub => 22 + sub.val

/-- `PHASE.X = 1`. -/
def phaseHas (s : State) (b : PhaseBit) : Bool := s.phase.getLsbD (phaseIndex b)

/-- `PHASE.X <- 1`, at the end of a command of a frame; the counter of free values moves on, so that two
commands draw their free values apart. -/
def markPhase (b : PhaseBit) (s : State) : State :=
  { s with phase := s.phase ||| 1#32 <<< phaseIndex b, fresh := s.fresh + 1 }

/-! ### Errors and STATUS -/

/-- The errors of a command (60_exceptions.md R300). -/
inductive ErrCode where
  | unsupportedFrameDuration
  | unsupportedStereo
  | outputBufferTooSmall
  | unsupportedBandwidth
  | illegalCommand
  | sequenceError
  | badFrameInfo
  deriving DecidableEq, Repr

/-- The code of an error in STATUS.ERRCODE (60_exceptions.md R300). -/
def errNumber : ErrCode → BitVec 4
  | .unsupportedFrameDuration => 1
  | .unsupportedStereo => 2
  | .outputBufferTooSmall => 3
  | .unsupportedBandwidth => 4
  | .illegalCommand => 5
  | .sequenceError => 6
  | .badFrameInfo => 7

/-- The code of a bandwidth (00_scope.md R15). -/
def bwCode : Bandwidth → Nat
  | .nb => 0
  | .mb => 1
  | .wb => 2

/-- The code of a signal-activity class (00_scope.md R15). -/
def sigCode : SigType → Nat
  | .inactive => 0
  | .unvoiced => 1
  | .voiced => 2

/-- The code of a quantization-offset class (00_scope.md R15). -/
def qoffCode : QOff → Nat
  | .low => 0
  | .high => 1

/-- STATUS as the host reads it (10_state.md R22). BUSY reads 0 at every access (70_reset_and_hazards.md
R341). -/
def statusWord (s : State) : Word :=
  BitVec.ofNat 32
    (2 * s.done.toNat + 4 * s.err.toNat + 2 ^ 8 * s.errCode.toNat +
     2 ^ 16 * s.dec.haveDecoded.toNat + 2 ^ 17 * (phaseHas s .f).toNat + 2 ^ 18 * bwCode s.dec.prevBw)

/-- A write to STATUS (10_state.md R22, 60_exceptions.md R312): 1 to DONE clears it, 1 to ERR clears ERR and
ERRCODE, other bits are ignored. This is how an error is left: there is no return from trap. -/
def clearStatus (v : Word) (s : State) : State :=
  { s with
    done := s.done && !v.getLsbD 1
    err := s.err && !v.getLsbD 2
    errCode := if v.getLsbD 2 then 0 else s.errCode }

/-- The interrupt line: `IRQ = CTRL.IRQ_EN & (STATUS.DONE | STATUS.ERR)` (60_exceptions.md R315). -/
def irq (s : State) : Bool := s.irqEn && (s.done || s.err)

end Sys2Proof.Machine
end

