-- ==== Sys2Proof/Machine/Operands.lean ====
section
/-! DEFINITION. What a command works on: the forms of ARG (30_encoding.md R80, R81), the fields of the
configuration registers (10_state.md R25 to R28), the sizes and tables of the open frame, and the sample
views (10_state.md R42). -/

namespace Sys2Proof.Machine

/-! ### ARG -/

/-- ARG as an LPC set: 0 or 1 (30_encoding.md R80). -/
def lpcSetOf (arg : BitVec 4) : Option (Fin 2) :=
  if h : arg.toNat < 2 then some ⟨arg.toNat, h⟩ else none

/-- ARG as a subframe index: 0 to 3 (30_encoding.md R80). -/
def subframeOf (arg : BitVec 4) : Option (Fin 4) :=
  if h : arg.toNat < 4 then some ⟨arg.toNat, h⟩ else none

/-! ### Configuration registers -/

/-- CFG.BW_REQ: none for the invalid code 3 (10_state.md R25). -/
def bwReq (s : State) : Option Bandwidth :=
  match s.cfg.toNat % 4 with
  | 0 => some .nb
  | 1 => some .mb
  | 2 => some .wb
  | _ => none

/-- CFG.STEREO_REQ (10_state.md R25). -/
def stereoReq (s : State) : Bool := s.cfg.getLsbD 4

/-- FRAMEINFO.SIGTYPE_IN: none for the invalid code 3 (10_state.md R27). -/
def sigTypeIn (s : State) : Option SigType :=
  match s.frameInfo.toNat % 4 with
  | 0 => some .inactive
  | 1 => some .unvoiced
  | 2 => some .voiced
  | _ => none

/-- FRAMEINFO.QOFF_IN (10_state.md R27). -/
def qoffIn (s : State) : QOff := if s.frameInfo.getLsbD 4 then .high else .low

/-- Every GAIN_IN is positive as an int32 (10_state.md R28). -/
def gainsPositive (s : State) : Bool := s.gainIn.toList.all fun g => decide (0 < g.toInt)

/-! ### The open frame -/

/-- The parameter record. -/
def params (s : State) : Params := s.tables.val

/-- The tables of the open frame's bandwidth group. -/
def book (s : State) : LsfBook := forClass (params s).lsf (bwClass s.frame.bw)

/-- S.DLPC (10_state.md R34). -/
def order (s : State) : Nat := dLpc s.frame.bw

/-- VOICED (00_scope.md R16). -/
def voiced (s : State) : Bool := s.frame.sigType == .voiced

/-- `set(s)`: the coefficient set of subframe `sub` (44_synthesis.md R221). -/
def setOfSubframe (s : State) (sub : Fin 4) : Fin 2 :=
  if s.work.interp ∧ sub.val < 2 then 0 else 1

/-- S.A32_Q17[set][0..D-1] as integers. -/
def a32Of (s : State) (set : Fin 2) : List Int := firstI (s.work.a32[set]) (order s)

/-- S.A_Q12[set][0..D-1] as integers. -/
def aQ12Of (s : State) (set : Fin 2) : List Int := firstI (s.work.aQ12[set]) (order s)

/-! ### Sample views (10_state.md R42) -/

/-- `out(i)`, with `out` the output buffer as it is so far. -/
def outView (s : State) (out : Vector F32 320) (i : Int) : F32 :=
  if 0 ≤ i ∧ i < nFrame s.frame.bw then rd out i.toNat 0
  else if -(hOut : Int) ≤ i ∧ i < 0 then rd s.dec.outHist (-1 - i).toNat 0
  else Config.viewBits s.fresh i

/-- `lpc(i)`, with `lpc` the filter-output buffer as it is so far. -/
def lpcView (s : State) (lpc : Vector F32 320) (i : Int) : F32 :=
  if 0 ≤ i ∧ i < nFrame s.frame.bw then rd lpc i.toNat 0
  else if -(order s : Int) ≤ i ∧ i < 0 then rd s.dec.lpcHist (-1 - i).toNat 0
  else Config.viewBits s.fresh i

/-- `res(i)`: S.RESBUF at the spec's index (10_state.md R41). -/
def resView (s : State) (res : Vector F32 626) (i : Int) : F32 :=
  if -(hOut : Int) ≤ i ∧ i < nFrame s.frame.bw then rd res (i + hOut).toNat 0
  else Config.viewBits s.fresh i

/-- `S.RESBUF[i] <- x` at the spec's index. -/
def putRes (res : Vector F32 626) (i : Int) (x : F32) : Vector F32 626 :=
  if -(hOut : Int) ≤ i then put res (i + hOut).toNat x else res

end Sys2Proof.Machine
end

