-- ==== Sys2Proof/Machine/Ops.lean ====
section
/-! DEFINITION. The operations the commands share: symbol requests to the cursor (20_memory.md R70 to R72),
stores into elements of a stated width (00_scope.md R8), error entry (60_exceptions.md R310), completion
(60_exceptions.md R311) and the form of a command with a PHASE precondition. -/

namespace Sys2Proof.Machine

/-! ### The cursor -/

/-- Every answer the cursor may give to a request with this table, in rising order (20_memory.md R71). -/
def answersOf (tab : Icdf) : List Nat := (List.range tab.length).filter (admissible tab)

/-- A draw turned into an answer: the draw itself where it is admissible, else one of the admissible answers
picked by it. -/
def answerOf (tab : Icdf) (draw : Nat) : Nat :=
  if admissible tab draw then draw
  else (answersOf tab).getD (draw % (answersOf tab).length) 0

/-- `Sym(tab)`: one symbol request (00_scope.md R12, 20_memory.md R70 to R72). The answer is the next fixed
answer of the environment where that is admissible, else a free draw. -/
def sym (tab : Icdf) (c : Cursor) : Nat × Cursor :=
  match c.script with
  | [] => (answerOf tab (Config.cursorDraw c.served), ⟨[], c.served + 1⟩)
  | a :: rest =>
    (if admissible tab a then a else answerOf tab (Config.cursorDraw c.served), ⟨rest, c.served + 1⟩)

/-- Work through a list in order, each element making its own requests. -/
def drawEach {α β : Type} (f : α → Cursor → β × Cursor) : List α → Cursor → List β × Cursor
  | [], c => ([], c)
  | a :: as, c =>
    let r := f a c
    let rs := drawEach f as r.2
    (r.1 :: rs.1, rs.2)

/-! ### Stores -/

/-- The `w`-bit two's-complement element that holds `v`. The spec has `v` in the element's range
(00_scope.md R8) and gives no value where it is not: then the element is free. -/
def storeI (n w : Nat) (v : Int) : BitVec w :=
  if -(2 ^ (w - 1) : Nat) ≤ v ∧ v < (2 ^ (w - 1) : Nat) then BitVec.ofInt w v
  else Config.storeBits n w v

/-- The `w`-bit unsigned element that holds `v`, free where `v` is not in its range. -/
def storeU (n w v : Nat) : BitVec w :=
  if v < 2 ^ w then BitVec.ofNat w v else Config.storeBits n w v

/-- What a `w`-bit two's-complement element reads as after `v` is stored to it: `v`, or where the element is free
the value it holds. A command that reads back what it stored computes with this (log 5). -/
def held (n w : Nat) (v : Int) : Int := (storeI n w v).toInt

/-- The first elements of an array of `w`-bit two's-complement elements replaced by integers. -/
def storeFirst {w m : Nat} (n : Nat) (v : Vector (BitVec w) m) (xs : List Int) :
    Vector (BitVec w) m :=
  putFirst v (xs.map (storeI n w))

/-! ### Error entry and completion -/

/-- Error entry (60_exceptions.md R310): STATUS.ERR and STATUS.ERRCODE are written and nothing else. -/
def raiseError (c : ErrCode) (s : State) : Outcome :=
  .next { s with err := true, errCode := errNumber c }

/-- Completion without error (60_exceptions.md R311): STATUS.DONE is set; ERR and ERRCODE are kept. -/
def complete (s : State) : State := { s with done := true }

/-- A command with a precondition (70_reset_and_hazards.md R340): SEQUENCE_ERROR where it is false
(60_exceptions.md R307), else the effect and completion. -/
def command (pre : State → Bool) (effect : State → State) (s : State) : Outcome :=
  if pre s then .next (complete (effect s)) else raiseError .sequenceError s

/-- The precondition "X and not Y" of most commands. -/
def after (x y : PhaseBit) (s : State) : Bool := phaseHas s x && !phaseHas s y

/-- A command on an LPC set: ILLEGAL_COMMAND where ARG is neither 0 nor 1 (30_encoding.md R81;
log 15). -/
def onSet (arg : BitVec 4) (run : Fin 2 → State → Outcome) (s : State) : Outcome :=
  match lpcSetOf arg with
  | some set => run set s
  | none => raiseError .illegalCommand s

/-- A command on a subframe: ILLEGAL_COMMAND where ARG is above 3 (30_encoding.md R81; log 15). -/
def onSubframe (arg : BitVec 4) (run : Fin 4 → State → Outcome) (s : State) : Outcome :=
  match subframeOf arg with
  | some sub => run sub s
  | none => raiseError .illegalCommand s

end Sys2Proof.Machine
end

