-- ==== Sys2Proof/Machine/Excitation.lean ====
section
/-! DEFINITION. The excitation pulse reconstructor: EXC_SEED, EXC_RATE, EXC_COUNTS, EXC_SHELL, EXC_LSB,
EXC_SIGNS, EXC_RECON (43_excitation.md). -/

namespace Sys2Proof.Machine

/-- S.NSHELL: the shell blocks of the open frame (10_state.md R34). -/
def blocks (s : State) : Nat := nShell s.frame.bw

/-- The first elements of S.E_RAW replaced. -/
def putRaw (s : State) (xs : List Int) : Vector (BitVec 32) 320 := storeFirst s.fresh s.work.eRaw xs

/-! ### Seed and rate level -/

/-- EXC_SEED (43_excitation.md R190). -/
def excSeed (s : State) : State :=
  let r := sym (params s).seedIcdf s.cursor
  markPhase .seed { s with work := { s.work with seed := r.1 }, cursor := r.2 }

/-- EXC_SEED as a command: a voiced frame needs LTP_SCALE first (70_reset_and_hazards.md R340). -/
def execExcSeed (s : State) : Outcome :=
  command (fun s => after .interp .seed s && (!voiced s || phaseHas s .ltps)) excSeed s

/-- EXC_RATE (43_excitation.md R191). -/
def excRate (s : State) : State :=
  let r := sym (forVoicing (params s).rateIcdf s.frame.sigType) s.cursor
  markPhase .rate { s with work := { s.work with rateLevel := r.1 }, cursor := r.2 }

/-- EXC_RATE as a command. -/
def execExcRate (s : State) : Outcome := command (after .seed .rate) excRate s

/-! ### Pulse counts -/

/-- The escapes of one block after its symbol `pc`, with `left` of the ten still allowed: the pulse count and
the LSB count (43_excitation.md R193). The tenth escape uses row 10, which has no symbol 17. -/
def escapes (rows : List Icdf) : Nat → Nat → Cursor → (Nat × Nat) × Cursor
  | 0, pc, c => ((pc, 10), c)
  | left + 1, pc, c =>
    if pc = 17 then
      let r := sym (rows.getD (if left = 0 then 10 else 9) []) c
      escapes rows left r.1 r.2
    else ((pc, 9 - left), c)

/-- One block's pulse count and LSB count (43_excitation.md R193). -/
def blockCount (rows : List Icdf) (rate : Nat) (c : Cursor) : (Nat × Nat) × Cursor :=
  let r := sym (rows.getD rate []) c
  escapes rows 10 r.1 r.2

/-- EXC_COUNTS (43_excitation.md R193). -/
def excCounts (s : State) : State :=
  let r := drawEach (fun _ => blockCount (params s).pulseIcdf s.work.rateLevel)
    (List.range (blocks s)) s.cursor
  markPhase .counts
    { s with
      work := { s.work with
        pulseCount := putFirst s.work.pulseCount (r.1.map (·.1))
        lsbCount := putFirst s.work.lsbCount (r.1.map (·.2)) }
      cursor := r.2 }

/-- EXC_COUNTS as a command. -/
def execExcCounts (s : State) : Outcome := command (after .rate .counts) excCounts s

/-! ### Shell decode -/

/-- `T.SHELL_ICDF[2^(h+1)][p]` for `p ≥ 1` (43_excitation.md R198). -/
def shellTable (rows : List (List Icdf)) (h p : Nat) : Icdf := (rows.getD h []).getD (p - 1) []

/-- DECODE(p, 2^h, …): the magnitudes of a partition, depth first, left half first; an empty partition makes
no request (43_excitation.md R195). -/
def shellDecode (rows : List (List Icdf)) : (h p : Nat) → Cursor → List Nat × Cursor
  | 0, p, c => ([p], c)
  | h + 1, p, c =>
    let l := if p = 0 then (0, c) else sym (shellTable rows h p) c
    let left := shellDecode rows h l.1 l.2
    let right := shellDecode rows h (p - l.1) left.2
    (left.1 ++ right.1, right.2)

/-- EXC_SHELL (43_excitation.md R195). -/
def excShell (s : State) : State :=
  let r := drawEach (fun b => shellDecode (params s).shellIcdf 4 (rd s.work.pulseCount b 0))
    (List.range (blocks s)) s.cursor
  markPhase .shell
    { s with
      work := { s.work with eRaw := putRaw s (r.1.flatten.map fun (m : Nat) => (m : Int)) }
      cursor := r.2 }

/-- EXC_SHELL as a command. -/
def execExcShell (s : State) : Outcome := command (after .counts .shell) excShell s

/-! ### LSB refinement -/

/-- A magnitude with `bits` more bits read behind it (43_excitation.md R196). -/
def refine (lsb : Icdf) : (bits : Nat) → Int → Cursor → Int × Cursor
  | 0, m, c => (m, c)
  | bits + 1, m, c =>
    let r := sym lsb c
    refine lsb bits (shl m 1 + r.1) r.2

/-- EXC_LSB: all bits of a sample, then the next sample (43_excitation.md R196). -/
def excLsb (s : State) : State :=
  let r := drawEach (fun i => refine (params s).lsbIcdf (rd s.work.lsbCount (i / 16) 0)
    (rdI s.work.eRaw i)) (List.range (16 * blocks s)) s.cursor
  markPhase .lsb { s with work := { s.work with eRaw := putRaw s r.1 }, cursor := r.2 }

/-- EXC_LSB as a command. -/
def execExcLsb (s : State) : Outcome := command (after .shell .lsb) excLsb s

/-! ### Signs -/

/-- The sign table of a block with `count` pulses (43_excitation.md R197). -/
def signTable (s : State) (count : Nat) : Icdf :=
  (forQOff (forSigType (params s).signIcdf s.frame.sigType) s.frame.qoff).getD (min count 6) []

/-- The signed value of sample `i`: a sign is read for a magnitude above 0 in a block whose pulse or LSB count
is above 0, and symbol 0 means negative (43_excitation.md R197). -/
def signed (s : State) (i : Nat) (c : Cursor) : Int × Cursor :=
  let count := rd s.work.pulseCount (i / 16) 0
  let m := rdI s.work.eRaw i
  if (0 < count ∨ 0 < rd s.work.lsbCount (i / 16) 0) ∧ 0 < m then
    let r := sym (signTable s count) c
    (if r.1 = 0 then -m else m, r.2)
  else (m, c)

/-- EXC_SIGNS (43_excitation.md R197). -/
def excSigns (s : State) : State :=
  let r := drawEach (signed s) (List.range (16 * blocks s)) s.cursor
  markPhase .signs { s with work := { s.work with eRaw := putRaw s r.1 }, cursor := r.2 }

/-- EXC_SIGNS as a command. -/
def execExcSigns (s : State) : Outcome := command (after .lsb .signs) excSigns s

/-! ### Reconstruction -/

/-- One step of the generator: `(LCG_A · seed + LCG_C) mod 2^32` (43_excitation.md R199). -/
def lcgStep (a c seed : Word) : Word := a * seed + c

/-- One value before its pseudo-random sign: `(raw << 8) - sign(raw)·20 + off` (43_excitation.md R199). -/
def dequantised (raw off : Int) : Int := shl raw 8 - signI raw * 20 + off

/-- The values of the samples in order, from the generator's state before the first (43_excitation.md
R199). -/
def reconstruct (a c : Word) (off : Int) : List Word → Word → List Int
  | [], _ => []
  | raw :: raws, seed =>
    let next := lcgStep a c seed
    let e := dequantised raw.toInt off
    (if next.msb then -e else e) :: reconstruct a c off raws (next + raw)

/-- The additive offset of the frame's class (43_excitation.md R198, R199). -/
def excOffset (s : State) : Int :=
  forQOff (forVoicing (params s).qoffsetQ23 s.frame.sigType) s.frame.qoff

/-- S.E_Q23[0..NFRAME-1] of the frame (43_excitation.md R199, R200). -/
def frameExcitation (s : State) : List Int :=
  reconstruct (params s).lcgA (params s).lcgC (excOffset s)
    (s.work.eRaw.toList.take (nFrame s.frame.bw)) (BitVec.ofNat 32 s.work.seed)

/-- EXC_RECON (43_excitation.md R199). -/
def excRecon (s : State) : State :=
  markPhase .erecon
    { s with work := { s.work with eQ23 := storeFirst s.fresh s.work.eQ23 (frameExcitation s) } }

/-- EXC_RECON as a command. -/
def execExcRecon (s : State) : Outcome := command (after .signs .erecon) excRecon s

end Sys2Proof.Machine
end

