-- ==== Sys2Proof/Machine/Lpc.lean ====
section
/-! DEFINITION. The LPC converter: LPC_CONVERT, LPC_RANGE, LPC_GAINLIM (41_lpc.md). -/

namespace Sys2Proof.Machine

/-- S.A32_Q17[set][0..D-1] replaced. -/
def putA32 (s : State) (set : Fin 2) (xs : List Int) : Vector (Vector (BitVec 32) 16) 2 :=
  put s.work.a32 set (storeFirst s.fresh s.work.a32[set] xs)

/-- S.A_Q12[set][0..D-1] replaced. -/
def putAQ12 (s : State) (set : Fin 2) (xs : List Int) : Vector (Vector (BitVec 16) 16) 2 :=
  put s.work.aQ12 set (storeFirst s.fresh s.work.aQ12[set] xs)

/-! ### Conversion -/

/-- Entry `i` of the cosine table. The rules have `i` in 0..128; a negative index, which the negative NLSF value of
a record with W_MAX above 4 gives, reads a free value (log 25). -/
def cosAt (u : Nat) (cos : List Int) (i : Int) : Int :=
  if i < 0 then Config.cosEntry u i else cos.getD i.toNat 0

/-- The cosine of an NLSF value, Q17: the table entry and the linear interpolation to the next
(41_lpc.md R141, R142). -/
def cosineQ17 (u : Nat) (cos : List Int) (n : Int) : Int :=
  let i := asr n 8
  let f := n % 256
  asr (cosAt u cos i * 256 + (cosAt u cos (i + 1) - cosAt u cos i) * f + 4) 3

/-- The cosines, each put where ORDER places it (41_lpc.md R141). -/
def placedCosines (u : Nat) (cos : List Int) (ord : List Nat) (n : List Int) : List Int :=
  (ord.zip (n.map (cosineQ17 u cos))).foldl (fun c p => c.set p.1 p.2) (List.replicate n.length 0)

/-- One outer step of POLY (41_lpc.md R143): the inner loop runs from `j = k` down to 2, so that it reads the
elements below before they change. -/
def polyStep (c : List Int) (off : Nat) (p : List Int) (k : Nat) : List Int :=
  let t := c.getD (off + 2 * k) 0
  let p1 := p.set (k + 1) (2 * p.getD (k - 1) 0 - asr (t * p.getD k 0 + 32768) 16)
  let p2 := ((List.range (k - 1)).map fun m => k - m).foldl
    (fun p j => p.set j (p.getD j 0 + p.getD (j - 2) 0 - asr (t * p.getD (j - 1) 0 + 32768) 16)) p1
  p2.set 1 (p2.getD 1 0 - t)

/-- POLY(c, off): the `dd + 1` coefficients of one polynomial, Q16 (41_lpc.md R143). -/
def poly (c : List Int) (off dd : Nat) : List Int :=
  (List.range' 1 (dd - 1)).foldl (polyStep c off)
    (65536 :: -(c.getD off 0) :: List.replicate (dd - 1) 0)

/-- The coefficients, Q17, of an NLSF vector of `d` entries (41_lpc.md R141). -/
def lpcOfNlsf (u : Nat) (cos : List Int) (ord : List Nat) (n : List Int) : List Int :=
  let d := n.length
  let c := placedCosines u cos ord n
  let p := poly c 0 (d / 2)
  let q := poly c 1 (d / 2)
  (List.range d).map fun j =>
    let k := if j < d / 2 then j else d - 1 - j
    let ptmp := p.getD (k + 1) 0 + p.getD k 0
    let qtmp := q.getD (k + 1) 0 - q.getD k 0
    if j < d / 2 then -qtmp - ptmp else qtmp - ptmp

/-- The NLSF vector a set converts: n1 for set 0, n2 for set 1 (41_lpc.md R141). -/
def nlsfOfSet (s : State) (set : Fin 2) : List Int :=
  firstI (if set = 0 then s.work.nlsf1 else s.work.nlsf2) (order s)

/-- LPC_CONVERT set (41_lpc.md R141). -/
def lpcConvert (set : Fin 2) (s : State) : State :=
  markPhase (.conv set)
    { s with work := { s.work with
      a32 := putA32 s set (lpcOfNlsf s.fresh (params s).cosQ12 (book s).order (nlsfOfSet s set)) } }

/-- The precondition of LPC_CONVERT: set 0 also needs S.INTERP = 1 (70_reset_and_hazards.md R340). -/
def mayConvert (set : Fin 2) (s : State) : Bool :=
  after .interp (.conv set) s && (set != 0 || s.work.interp)

/-- LPC_CONVERT as a command. -/
def execLpcConvert (arg : BitVec 4) (s : State) : Outcome :=
  onSet arg (fun set => command (mayConvert set) (lpcConvert set)) s

/-! ### Range limiting -/

/-- BWEXPAND(A, sc0) with the running factor `chirp` (41_lpc.md R145). -/
def bwExpandFrom (sc0 : Int) (chirp : Int) : List Int → List Int
  | [] => []
  | a :: as => asr (chirp * a) 16 :: bwExpandFrom sc0 (asr (chirp * sc0 + 32768) 16) as

/-- BWEXPAND(A, sc0) (41_lpc.md R145). -/
def bwExpand (a : List Int) (sc0 : Int) : List Int := bwExpandFrom sc0 sc0 a

/-- The largest magnitude and its first index; 0 and 0 where every coefficient is 0 (41_lpc.md R144). -/
def maxAbs (a : List Int) : Int × Nat :=
  a.zipIdx.foldl (fun best x => if best.1 < absI x.1 then (absI x.1, x.2) else best) (0, 0)

/-- The expansion factor for a largest magnitude (Q12) at index `idx` (41_lpc.md R144). -/
def rangeFactor (maxQ12 : Int) (idx : Nat) : Int :=
  let m := min maxQ12 163838
  65470 - tdiv (shl (m - 32767) 14) (asr (m * ((idx : Int) + 1)) 2)

/-- The expansion rounds, `left` of them still allowed: the vector, and whether the budget is exhausted
(41_lpc.md R144). -/
def rangeRounds : Nat → List Int → List Int × Bool
  | 0, a => (a, true)
  | left + 1, a =>
    let m := maxAbs a
    let maxQ12 := asr (m.1 + 16) 5
    if maxQ12 ≤ 32767 then (a, false)
    else rangeRounds left (bwExpand a (rangeFactor maxQ12 m.2))

/-- A coefficient rounded from Q17 to Q12. -/
def toQ12 (a : Int) : Int := asr (a + 16) 5

/-- Range limiting: the new S.A32_Q17[set] and S.A_Q12[set] (41_lpc.md R144). -/
def rangeLimit (a : List Int) : List Int × List Int :=
  let r := rangeRounds 10 a
  if r.2 then
    let q := r.1.map fun x => clampI (-32768) (toQ12 x) 32767
    (q.map fun x => shl x 5, q)
  else (r.1, r.1.map toQ12)

/-- LPC_RANGE set (41_lpc.md R144). -/
def lpcRange (set : Fin 2) (s : State) : State :=
  let r := rangeLimit (a32Of s set)
  markPhase (.range set)
    { s with work := { s.work with a32 := putA32 s set r.1, aQ12 := putAQ12 s set r.2 } }

/-- LPC_RANGE as a command. -/
def execLpcRange (arg : BitVec 4) (s : State) : Outcome :=
  onSet arg (fun set => command (after (.conv set) (.range set)) (lpcRange set)) s

/-! ### Prediction-gain limiting -/

/-- The coefficients of the next lower order, from `a[0..k]` and the reflection terms (41_lpc.md R146). -/
def stepDown (a : List Int) (k : Nat) (rc div : Int) : List Int :=
  let b1 := ilog div
  let b2 := b1 - 16
  let inv := tdiv (shl 1 29 - 1) (asr div (b2 + 1))
  let err := shl 1 29 - asr (shl div (15 - b2) * inv) 16
  let gain := shl inv 16 + asr (err * inv) 13
  (List.range k).map fun n =>
    let num := a.getD n 0 - asr (a.getD (k - n - 1) 0 * rc + shl 1 30) 31
    asr (num * gain + shl 1 (b1 - 1)) b1

/-- The recursion of STABLE over the orders `k - 1` down to 0, on `k` coefficients in Q24 (41_lpc.md R146). -/
def stableFrom : Nat → List Int → Int → Bool
  | 0, _, _ => true
  | k + 1, a, invGain =>
    let ak := a.getD k 0
    if absI ak > 16773022 then false
    else
      let rc := -(shl ak 7)
      let div := shl 1 30 - asr (rc * rc) 32
      let invGain' := shl (asr (invGain * div) 32) 2
      if invGain' < 107374 then false
      else stableFrom k (stepDown a k rc div) invGain'

/-- STABLE(a) for a Q12 vector by the default procedure of P_STABLE (41_lpc.md R146). -/
def stable (a : List Int) : Bool :=
  if sumI a > 4096 then false
  else stableFrom a.length (a.map fun x => shl x 12) (shl 1 30)

/-- P_STABLE: the default procedure, or another one with free answers (92_eei_decisions.md D40; log 6). -/
def stableBy : StableProc → List Int → Bool
  | .default, a => stable a
  | .other n, a => Config.otherStable n a

/-- The contraction loop from round `i` on, `left` rounds left, with `judge` as STABLE (41_lpc.md R147). -/
def gainRounds (judge : List Int → Bool) : (left i : Nat) → List Int → List Int → List Int × List Int
  | 0, _, a32, aq => (a32, aq)
  | left + 1, i, a32, aq =>
    if judge aq then (a32, aq)
    else
      let a := bwExpand a32 (65536 - shl 2 i)
      gainRounds judge left (i + 1) a (a.map toQ12)

/-- The function G of LPC_GAINLIM, from (A32, AQ), with `judge` as STABLE (41_lpc.md R147, R148). -/
def gainLimit (judge : List Int → Bool) (a32 aq : List Int) : List Int × List Int :=
  gainRounds judge 16 0 a32 aq

/-- LPC_GAINLIM set (41_lpc.md R147). -/
def lpcGainlim (set : Fin 2) (s : State) : State :=
  let r := gainLimit (stableBy (params s).pStable) (a32Of s set) (aQ12Of s set)
  markPhase (.gain set)
    { s with work := { s.work with a32 := putA32 s set r.1, aQ12 := putAQ12 s set r.2 } }

/-- LPC_GAINLIM as a command. -/
def execLpcGainlim (arg : BitVec 4) (s : State) : Outcome :=
  onSet arg (fun set => command (after (.range set) (.gain set)) (lpcGainlim set)) s

end Sys2Proof.Machine
end

