-- ==== Sys2Proof/Machine/Lsf.lean ====
section
/-! DEFINITION. The LSF decoder and interpolator: LSF_S1, LSF_S2, LSF_RECON, LSF_STAB, LSF_INTERP
(40_lsf.md). -/

namespace Sys2Proof.Machine

/-! ### Stage 1 -/

/-- The stage-1 table: chosen by bandwidth group and voicing (40_lsf.md R102). -/
def stage1Table (s : State) : Icdf := forVoicing (book s).cb1Icdf s.frame.sigType

/-- LSF_S1 (40_lsf.md R103). -/
def lsfS1 (s : State) : State :=
  let r := sym (stage1Table s) s.cursor
  markPhase .s1
    { s with work := { s.work with i1 := storeU s.fresh 8 r.1 }, cursor := r.2 }

/-- LSF_S1 as a command. -/
def execLsfS1 (s : State) : Outcome := command (after .f .s1) lsfS1 s

/-! ### Stage 2 -/

/-- The stage-2 table of position `k` of vector `i1` (40_lsf.md R104). -/
def stage2Table (b : LsfBook) (i1 k : Nat) : Icdf :=
  b.cb2Icdf.getD ((b.cb2Sel.getD i1 []).getD k 0) []

/-- One residual index with its extension: read exactly when the base value is -4 or 4, and moving it away
from zero (40_lsf.md R105, R106). -/
def residualIndex (ext tab : Icdf) (c : Cursor) : Int × Cursor :=
  let r := sym tab c
  let base : Int := (r.1 : Int) - 4
  if base = -4 then
    let e := sym ext r.2
    (base - e.1, e.2)
  else if base = 4 then
    let e := sym ext r.2
    (base + e.1, e.2)
  else (base, r.2)

/-- LSF_S2 (40_lsf.md R105). -/
def lsfS2 (s : State) : State :=
  let r := drawEach (fun k => residualIndex (params s).extIcdf (stage2Table (book s) s.work.i1.toNat k))
    (List.range (order s)) s.cursor
  markPhase .s2
    { s with work := { s.work with i2 := storeFirst s.fresh s.work.i2 r.1 }, cursor := r.2 }

/-- LSF_S2 as a command. -/
def execLsfS2 (s : State) : Outcome := command (after .s1 .s2) lsfS2 s

/-! ### Reconstruction -/

/-- The quantised term of one position: `((I2 << 10) - sign(I2)·102) · QSTEP >> 16` (40_lsf.md R107). -/
def quantTerm (i2 qstep : Int) : Int := asr ((shl i2 10 - signI i2 * 102) * qstep) 16

/-- The prediction weight of position `k` of vector `i1` (40_lsf.md R107). -/
def predWeight (b : LsfBook) (i1 k : Nat) : Nat :=
  (b.predQ8.getD ((b.predSel.getD i1 []).getD k 0) []).getD k 0

/-- The residuals S.RES_Q10[0..d-1]: each position adds the prediction from the element above it, read back as it
is held, the last position none (40_lsf.md R107; log 5 for a residual that no int32 holds). -/
def residuals (n : Nat) (b : LsfBook) (i1 : Nat) (i2 : List Int) (d : Nat) : List Int :=
  (List.range d).foldr
    (fun k above =>
      let pred : Int := match above with
        | [] => 0
        | r :: _ => asr (r * predWeight b i1 k) 8
      held n 32 (pred + quantTerm (i2.getD k 0) b.qstepQ16) :: above)
    []

/-- `cb[j - 1]` with `cb[-1] = 0` and `cb[D] = 256` (40_lsf.md R107). -/
def cbBound (cb : List Nat) (j : Nat) : Int :=
  if j = 0 then 0 else if j - 1 < cb.length then (cb.getD (j - 1) 0 : Nat) else 256

/-- The reconstruction weight `W_Q9(cb, k)` (40_lsf.md R108). -/
def weightQ9 (cb : List Nat) (k : Nat) : Int :=
  let w2 := shl (tdiv 1024 (cbBound cb (k + 1) - cbBound cb k) +
    tdiv 1024 (cbBound cb (k + 2) - cbBound cb (k + 1))) 16
  let i := ilog w2
  let f := asr w2 (i - 8) % 128
  let y := asr (if i % 2 = 1 then 32768 else 46214) ((32 - i) / 2)
  y + asr (213 * f * y) 16

/-- One raw NLSF value from its residual, clamped to 0..32767 (40_lsf.md R107, R109). -/
def rawNlsf (cb : List Nat) (res : List Int) (k : Nat) : Int :=
  clampI 0 (shl (cb.getD k 0 : Nat) 7 + tdiv (shl (res.getD k 0) 14) (weightQ9 cb k)) 32767

/-- The stage-1 vector the decoded index selects. -/
def stage1Vector (s : State) : List Nat := (book s).cb1Q8.getD s.work.i1.toNat []

/-- The residuals of the open frame, as their elements hold them. -/
def frameResiduals (s : State) : List Int :=
  residuals s.fresh (book s) s.work.i1.toNat (firstI s.work.i2 (order s)) (order s)

/-- The raw NLSF vector of the open frame, from the residuals as their elements hold them (40_lsf.md R107; log 5).
-/
def frameRawNlsf (s : State) : List Int :=
  (List.range (order s)).map (rawNlsf (stage1Vector s) (frameResiduals s))

/-- LSF_RECON (40_lsf.md R107). -/
def lsfRecon (s : State) : State :=
  markPhase .recon
    { s with work := { s.work with
      resQ10 := storeFirst s.fresh s.work.resQ10 (frameResiduals s)
      nlsf2 := storeFirst s.fresh s.work.nlsf2 (frameRawNlsf s) } }

/-- LSF_RECON as a command. -/
def execLsfRecon (s : State) : Outcome := command (after .s2 .recon) lsfRecon s

/-! ### Stabilisation -/

/-- The slack of gap `i` of `D + 1`: how far `N` exceeds the minimum spacing there (40_lsf.md R110). -/
def gapAt (delta n : List Int) (i : Nat) : Int :=
  if i = 0 then n.getD 0 0 - delta.getD 0 0
  else if i < n.length then n.getD i 0 - (n.getD (i - 1) 0 + delta.getD i 0)
  else 32768 - (n.getD (n.length - 1) 0 + delta.getD n.length 0)

/-- The worst gap and its slack; ties go to the lowest index (40_lsf.md R110). -/
def worstGap (delta n : List Int) : Int × Nat :=
  (List.range' 1 n.length).foldl
    (fun best i => if gapAt delta n i < best.1 then (gapAt delta n i, i) else best)
    (gapAt delta n 0, 0)

/-- Repair gap `i` (40_lsf.md R110). It can give 32768, which no int16 element holds: `stabPasses` reads it back as
held (log 5). -/
def repairGap (delta n : List Int) (i : Nat) : List Int :=
  let d := n.length
  if i = 0 then n.set 0 (delta.getD 0 0)
  else if i = d then n.set (d - 1) (32768 - delta.getD d 0)
  else
    let half := asr (delta.getD i 0) 1
    let minCenter := sumI (delta.take i) + half
    let maxCenter := 32768 - sumI (delta.drop (i + 1)) - half
    let center := clampI minCenter (asr (n.getD (i - 1) 0 + n.getD i 0 + 1) 1) maxCenter
    (n.set (i - 1) (center - half)).set i (center - half + delta.getD i 0)

/-- A value put into a non-decreasing list. -/
def insertSorted (x : Int) : List Int → List Int
  | [] => [x]
  | y :: ys => if x ≤ y then x :: y :: ys else y :: insertSorted x ys

/-- The list in non-decreasing order (40_lsf.md R111). -/
def sortI : List Int → List Int
  | [] => []
  | x :: xs => insertSorted x (sortI xs)

/-- The rising pass of the fallback after its first element: each element at least the one before it plus its
spacing, but that bound never above 32767 (40_lsf.md R111). -/
def raisePass (prev : Int) : List Int → List Int → List Int
  | d :: ds, x :: xs =>
    let y := max x (min (prev + d) 32767)
    y :: raisePass y ds xs
  | [], _ | _ :: _, [] => []

/-- The falling pass of the fallback: each element at most the one after it less the spacing between them; the
last at most 32768 less the last spacing (40_lsf.md R111). `delta` is the spacing above each element. -/
def lowerPass : List Int → List Int → List Int
  | [d], [x] => [min x (32768 - d)]
  | d :: ds, x :: xs =>
    match lowerPass ds xs with
    | [] => [x]
    | y :: ys => min x (y - d) :: y :: ys
  | [], _ | _ :: _, [] => []

/-- FALLBACK: sort and clamp (40_lsf.md R111). -/
def fallback (delta n : List Int) : List Int :=
  match delta, sortI n with
  | d0 :: ds, x :: xs =>
    let y := max x d0
    lowerPass ds (y :: raisePass y ds xs)
  | [], xs | _ :: _, xs => xs

/-- The passes of the stabilisation, `left` of them still allowed (40_lsf.md R110). What a repair stores is read back
by the next pass as the int16 elements hold it (log 5 for a repair that gives 32768); `u` is the counter of free
values. -/
def stabPasses (u : Nat) (delta : List Int) : Nat → List Int → List Int
  | 0, n => fallback delta n
  | left + 1, n =>
    let worst := worstGap delta n
    if 0 ≤ worst.1 then n else stabPasses u delta left ((repairGap delta n worst.2).map (held u 16))

/-- The stabilised vector: at most 20 passes, then the fallback (40_lsf.md R110, R111). -/
def stabilise (u : Nat) (delta n : List Int) : List Int := stabPasses u delta 20 n

/-- LSF_STAB (40_lsf.md R110; log 5 for a repair that gives 32768). -/
def lsfStab (s : State) : State :=
  let n := stabilise s.fresh (book s).ndeltaMinQ15 (firstI s.work.nlsf2 (order s))
  markPhase .stab
    { s with work := { s.work with nlsf2 := storeFirst s.fresh s.work.nlsf2 n } }

/-- LSF_STAB as a command. -/
def execLsfStab (s : State) : Outcome := command (after .recon .stab) lsfStab s

/-! ### Interpolation -/

/-- The interpolation factor (40_lsf.md R112): one symbol; on a first frame W_MAX, without a request unless
P_INTERP_READ_FIRST, and with it the symbol is read and overridden (93_implementation_defined.md I14; log 10). -/
def interpFactor (s : State) : Nat × Cursor :=
  if s.frame.first then
    ((params s).wMax,
      if (params s).interpReadFirst then (sym (params s).interpIcdf s.cursor).2 else s.cursor)
  else sym (params s).interpIcdf s.cursor

/-- The blend of one position: `n0 + ((W · (n2 - n0)) >> 2)` (40_lsf.md R112). -/
def blend (w n0 n2 : Int) : Int := n0 + asr (w * (n2 - n0)) 2

/-- The vector n1 (40_lsf.md R112). -/
def blended (s : State) (w : Nat) (interp : Bool) : List Int :=
  (List.range (order s)).map fun k =>
    if interp then blend w (rdI s.dec.prevNlsf k) (rdI s.work.nlsf2 k) else rdI s.work.nlsf2 k

/-- LSF_INTERP (40_lsf.md R112). -/
def lsfInterp (s : State) : State :=
  let r := interpFactor s
  let interp := !s.frame.first && decide (r.1 < (params s).wMax)
  markPhase .interp
    { s with
      work := { s.work with
        wQ2 := storeU s.fresh 8 r.1
        interp := interp
        nlsf1 := storeFirst s.fresh s.work.nlsf1 (blended s r.1 interp) }
      cursor := r.2 }

/-- LSF_INTERP as a command. -/
def execLsfInterp (s : State) : Outcome := command (after .stab .interp) lsfInterp s

end Sys2Proof.Machine
end

