-- ==== Sys2Proof/Machine/Ltp.lean ====
section
/-! DEFINITION. The pitch and LTP decoder: PITCH_LAGS, LTP_COEFS, LTP_SCALE (42_ltp.md). -/

namespace Sys2Proof.Machine

/-! ### Pitch lags -/

/-- The primary lag: high and low part, or one symbol where the lag is not split (42_ltp.md R171, R172). -/
def primaryLag (p : Params) (bw : Bandwidth) (c : Cursor) : Nat × Cursor :=
  if forBw p.pitchSplit bw then
    let hi := sym p.pitchHighIcdf c
    let lo := sym (forBw p.pitchLowIcdf bw) hi.2
    (hi.1 * lagScale bw + lo.1 + lagMin bw, lo.2)
  else
    let r := sym (forBw p.pitchAbsIcdf bw) c
    (r.1 + lagMin bw, r.2)

/-- `P_CONTOUR_SEL(bw, lag)` (42_ltp.md R170). -/
def contourClass (p : Params) (bw : Bandwidth) (lag : Int) : Nat :=
  let sel := forBw p.contourSel bw
  if lag < lagMin bw then sel.beyond else sel.classes.getD (lag - lagMin bw).toNat sel.beyond

/-- `T.CONTOUR_CB[c][j][s]` (42_ltp.md R170). -/
def contourOffset (p : Params) (c j sub : Nat) : Int :=
  ((p.contourCb.getD c []).getD j []).getD sub 0

/-- The four offsets: one index for each subframe, or one for the frame (42_ltp.md R171, R173). -/
def lagOffsets (p : Params) (cls : Nat) (c : Cursor) : List Int × Cursor :=
  match p.contourMode with
  | .perFrame =>
    let r := sym (p.contourIcdf.getD cls []) c
    ((List.range 4).map (contourOffset p cls r.1), r.2)
  | .perSubframe =>
    drawEach (fun sub c =>
      let r := sym (p.contourIcdf.getD cls []) c
      (contourOffset p cls r.1 sub, r.2)) (List.range 4) c

/-- The subframe lags: the primary lag and the offset, clamped to LAG_MIN..LAG_MAX (42_ltp.md R171). -/
def subframeLags (bw : Bandwidth) (lag : Int) (offsets : List Int) : List Int :=
  offsets.map fun o => clampI (lagMin bw) (lag + o) (lagMax bw)

/-- PITCH_LAGS (42_ltp.md R171). The contour class and the subframe lags are formed from S.LAG as the int16 element
holds it (log 5). -/
def pitchLags (s : State) : State :=
  let r := primaryLag (params s) s.frame.bw s.cursor
  let lag := storeI s.fresh 16 r.1
  let off := lagOffsets (params s) (contourClass (params s) s.frame.bw lag.toInt) r.2
  markPhase .pitch
    { s with
      work := { s.work with
        lag := lag
        pitchLag := storeFirst s.fresh s.work.pitchLag (subframeLags s.frame.bw lag.toInt off.1) }
      cursor := off.2 }

/-- PITCH_LAGS as a command: only on voiced frames (70_reset_and_hazards.md R340). -/
def execPitchLags (s : State) : Outcome :=
  command (fun s => after .interp .pitch s && voiced s) pitchLags s

/-! ### LTP coefficients -/

/-- The five taps of filter `i` of level `l` (42_ltp.md R174). -/
def ltpTaps (p : Params) (l i : Nat) : List Int := (p.ltpCbQ7.getD l []).getD i []

/-- LTP_COEFS: one level, then one filter index for each subframe (42_ltp.md R174). -/
def ltpCoefs (s : State) : State :=
  let per := sym (params s).ltpPerIcdf s.cursor
  let idx := drawEach (fun _ c => sym ((params s).ltpFiltIcdf.getD per.1 []) c) (List.range 4) per.2
  markPhase .ltpc
    { s with
      work := { s.work with
        ltpPer := per.1
        ltpIdx := putFirst s.work.ltpIdx (idx.1.map (storeU s.fresh 8))
        bQ7 := build 4 fun sub =>
          storeFirst s.fresh (Vector.replicate 5 0) (ltpTaps (params s) per.1 (idx.1.getD sub 0)) }
      cursor := idx.2 }

/-- LTP_COEFS as a command. -/
def execLtpCoefs (s : State) : Outcome := command (after .pitch .ltpc) ltpCoefs s

/-! ### LTP scaling -/

/-- LTP_SCALE (42_ltp.md R176). -/
def ltpScale (s : State) : State :=
  let r := sym (params s).ltpScaleIcdf s.cursor
  markPhase .ltps
    { s with
      work := { s.work with ltpScaleQ14 := storeI s.fresh 16 ((params s).ltpScaleQ14.getD r.1 0) }
      cursor := r.2 }

/-- LTP_SCALE as a command. -/
def execLtpScale (s : State) : Outcome := command (after .ltpc .ltps) ltpScale s

end Sys2Proof.Machine
end

