-- ==== Sys2Proof/Machine/Fp.lean ====
section
/-! DEFINITION. The numerics field FP: IEEE 754 binary32, round to nearest even, subnormals kept, no
exception flags (44_synthesis.md R220, 00_scope.md R13, R14). Every operation decodes its operands,
computes the exact result and rounds it once. -/

namespace Sys2Proof.Machine

/-- The value of a binary32 bit pattern: `fin neg m e` is `± m · 2^e`. -/
inductive FpVal where
  | nan
  | inf (neg : Bool)
  | fin (neg : Bool) (m : Nat) (e : Int)
  deriving DecidableEq, Repr

/-- The value of a bit pattern (1 sign, 8 exponent, 23 fraction bits). -/
def fpVal (x : F32) : FpVal :=
  let neg := x.msb
  let ex : Nat := x.toNat / 2 ^ 23 % 2 ^ 8
  let fr : Nat := x.toNat % 2 ^ 23
  if ex = 255 then (if fr = 0 then .inf neg else .nan)
  else if ex = 0 then .fin neg fr (-149)
  else .fin neg (2 ^ 23 + fr) (ex - 150)

/-- A bit pattern from its sign and the 31 bits below it. -/
def fpBits (neg : Bool) (low : Nat) : F32 :=
  BitVec.ofNat 32 (low + if neg then 2 ^ 31 else 0)

/-- The infinity of a sign. -/
def fpInf (neg : Bool) : F32 := fpBits neg (255 * 2 ^ 23)

/-- A NaN with free sign and payload (44_synthesis.md R220; 93_implementation_defined.md I9): the
exponent is all ones and the fraction is not 0. `n` is the counter of free values. -/
def fpNan (n : Nat) (op : FpOp) (a b : F32) : F32 :=
  let raw := Config.nanBits n op a b
  let x := raw ||| 0x7F800000
  if x &&& 0x007FFFFF = 0 then x ||| 1 else x

/-- `⌊m / 2^d⌋` rounded to nearest, ties to even. -/
def roundShift (m d : Nat) : Nat :=
  let q := m / 2 ^ d
  let r := m % 2 ^ d
  if 2 * r > 2 ^ d ∨ (2 * r = 2 ^ d ∧ q % 2 = 1) then q + 1 else q

/-- `± m · 2^e` rounded to binary32, to nearest even, to infinity on overflow. The exponent of the last
place is that of a 24-bit significand, but never below -149 (subnormals). -/
def fpRound (neg : Bool) (m : Nat) (e : Int) : F32 :=
  if m = 0 then fpBits neg 0
  else
    let last := max (e + (Nat.log2 m + 1 : Nat) - 24) (-149)
    let q := if last ≤ e then m * 2 ^ (e - last).toNat else roundShift m (last - e).toNat
    let low := q + (last + 149).toNat * 2 ^ 23
    if low ≥ 255 * 2 ^ 23 then fpInf neg else fpBits neg low

/-- `f32(v)` of an integer `v` (44_synthesis.md R220: to nearest even). -/
def fpOfInt (v : Int) : F32 := fpRound (decide (v < 0)) v.natAbs 0

/-- The sum of two finite values, rounded once; an exact zero is +0 unless both operands are -0. -/
def fpAddFin (n1 : Bool) (m1 : Nat) (e1 : Int) (n2 : Bool) (m2 : Nat) (e2 : Int) : F32 :=
  let e := min e1 e2
  let v1 : Int := m1 * 2 ^ (e1 - e).toNat
  let v2 : Int := m2 * 2 ^ (e2 - e).toNat
  let v := (if n1 then -v1 else v1) + (if n2 then -v2 else v2)
  if v = 0 then fpBits (n1 && n2) 0 else fpRound (decide (v < 0)) v.natAbs e

/-- The sum of two values, with `op` the operation a NaN is made by. -/
def fpSum (n : Nat) (op : FpOp) (a b : F32) (va vb : FpVal) : F32 :=
  match va, vb with
  | .nan, _ | _, .nan => fpNan n op a b
  | .inf s, .inf t => if s = t then fpInf s else fpNan n op a b
  | .inf s, .fin _ _ _ => fpInf s
  | .fin _ _ _, .inf t => fpInf t
  | .fin n1 m1 e1, .fin n2 m2 e2 => fpAddFin n1 m1 e1 n2 m2 e2

/-- The value with its sign turned. -/
def FpVal.negate : FpVal → FpVal
  | .nan => .nan
  | .inf s => .inf (!s)
  | .fin s m e => .fin (!s) m e

/-- `f32(a + b)`. -/
def fpAdd (n : Nat) (a b : F32) : F32 := fpSum n .add a b (fpVal a) (fpVal b)

/-- `f32(a - b)`. -/
def fpSub (n : Nat) (a b : F32) : F32 := fpSum n .sub a b (fpVal a) (fpVal b).negate

/-- `f32(a * b)`. -/
def fpMul (n : Nat) (a b : F32) : F32 :=
  match fpVal a, fpVal b with
  | .nan, _ | _, .nan => fpNan n .mul a b
  | .inf s, .inf t => fpInf (s != t)
  | .inf s, .fin t m _ | .fin t m _, .inf s => if m = 0 then fpNan n .mul a b else fpInf (s != t)
  | .fin n1 m1 e1, .fin n2 m2 e2 => fpRound (n1 != n2) (m1 * m2) (e1 + e2)

/-- The quotient of two finite values, rounded once: 50 more bits of quotient than the operands have,
then a sticky bit for a remainder. -/
def fpDivFin (neg : Bool) (m1 : Nat) (e1 : Int) (m2 : Nat) (e2 : Int) : F32 :=
  let num := m1 * 2 ^ 50
  fpRound neg (2 * (num / m2) + if num % m2 = 0 then 0 else 1) (e1 - e2 - 51)

/-- `f32(a / b)`. -/
def fpDiv (n : Nat) (a b : F32) : F32 :=
  match fpVal a, fpVal b with
  | .nan, _ | _, .nan => fpNan n .div a b
  | .inf _, .inf _ => fpNan n .div a b
  | .inf s, .fin t _ _ => fpInf (s != t)
  | .fin s _ _, .inf t => fpBits (s != t) 0
  | .fin n1 m1 e1, .fin n2 m2 e2 =>
    if m2 = 0 then (if m1 = 0 then fpNan n .div a b else fpInf (n1 != n2))
    else fpDivFin (n1 != n2) m1 e1 m2 e2

/-- `a < b` on floats: false where either is a NaN, and -0 is not below +0. -/
def fpLt (a b : F32) : Bool :=
  match fpVal a, fpVal b with
  | .nan, _ | _, .nan => false
  | .inf s, .inf t => s && !t
  | .inf s, .fin _ _ _ => s
  | .fin _ _ _, .inf t => !t
  | .fin n1 m1 e1, .fin n2 m2 e2 =>
    let e := min e1 e2
    let v1 : Int := m1 * 2 ^ (e1 - e).toNat
    let v2 : Int := m2 * 2 ^ (e2 - e).toNat
    decide ((if n1 then -v1 else v1) < (if n2 then -v2 else v2))

/-- Whether a bit pattern encodes a NaN. -/
def fpIsNan (x : F32) : Bool := fpVal x == .nan

/-- `1.0` -/
def fpOne : F32 := 0x3F800000

/-- `-1.0` -/
def fpMinusOne : F32 := 0xBF800000

/-- `clamp(-1.0, v, 1.0)`: `v < lo ? lo : (v > hi ? hi : v)`, so a NaN passes (44_synthesis.md R220). -/
def fpClamp1 (v : F32) : F32 :=
  if fpLt v fpMinusOne then fpMinusOne else if fpLt fpOne v then fpOne else v

/-- `Σ e` over float terms: left to right from +0.0, each addition rounded (00_scope.md R14). -/
def fpSumList (n : Nat) (terms : List F32) : F32 := terms.foldl (fpAdd n) 0

end Sys2Proof.Machine
end

