-- ==== Sys2Proof/Machine/Synthesis.lean ====
section
/-! DEFINITION. The synthesis filter: SYNTH (44_synthesis.md). Every float operation is rounded once, in the
order the rules write them. -/

namespace Sys2Proof.Machine

/-! ### Choices of a subframe (44_synthesis.md R221) -/

/-- The first sample `j` of a subframe. -/
def firstSample (s : State) (sub : Fin 4) : Nat := sub.val * nSf s.frame.bw

/-- The coefficients `a[k] = f32(S.A_Q12[set(s)][k]) / 4096`. -/
def coefs (s : State) (sub : Fin 4) : List F32 :=
  (aQ12Of s (setOfSubframe s sub)).map fun a => fpDiv s.fresh (fpOfInt a) (fpOfInt 4096)

/-- `rw(s)`: rewhitening uses the unscaled LTP. -/
def rewhitens (s : State) (sub : Fin 4) : Bool := s.work.interp && decide (2 ≤ sub.val)

/-- `out_end`. -/
def outEnd (s : State) (sub : Fin 4) : Int :=
  if rewhitens s sub then (firstSample s sub : Int) - ((sub.val : Int) - 2) * nSf s.frame.bw
  else (firstSample s sub : Int) - (sub.val : Int) * nSf s.frame.bw

/-- `scale(s)`. -/
def ltpScaleOf (s : State) (sub : Fin 4) : Int :=
  if rewhitens s sub then 16384 else s.work.ltpScaleQ14.toInt

/-- `g = f32(S.GAIN_Q16[s])`. -/
def gainOf (s : State) (sub : Fin 4) : F32 := fpOfInt (s.frame.gainQ16[sub]).toInt

/-- The pitch lag `L` of a subframe. -/
def lagOf (s : State) (sub : Fin 4) : Int := (s.work.pitchLag[sub]).toInt

/-- The LTP taps `f32(S.B_Q7[s][k]) / 128.0` of a subframe (44_synthesis.md R224; log 9). -/
def tapsOf (s : State) (sub : Fin 4) : List F32 :=
  (firstI (s.work.bQ7[sub]) 5).map fun b => fpDiv s.fresh (fpOfInt b) (fpOfInt 128)

/-- `Σ_k f32(x(k) · w[k])` over the weights `w`, left to right (00_scope.md R14). -/
def dot (n : Nat) (x : Nat → F32) (w : List F32) : F32 :=
  fpSumList n (w.zipIdx.map fun p => fpMul n (x p.2) p.1)

/-! ### Residual (44_synthesis.md R222, R224) -/

/-- One rewhitened residual from the output history: the first loop of 44_synthesis.md R222. -/
def rewhitenOut (s : State) (sub : Fin 4) (i : Int) : F32 :=
  let n := s.fresh
  let out := outView s s.work.out
  let p := dot n (fun k => out (i - k - 1)) (coefs s sub)
  let t := fpClamp1 (fpSub n (out i) p)
  fpMul n (fpDiv n (fpOfInt (4 * ltpScaleOf s sub)) (gainOf s sub)) t

/-- One rewhitened residual from the filter's own output: the second loop of 44_synthesis.md R222. -/
def rewhitenLpc (s : State) (sub : Fin 4) (i : Int) : F32 :=
  let n := s.fresh
  let lpc := lpcView s s.work.lpcBuf
  let p := dot n (fun k => lpc (i - k - 1)) (coefs s sub)
  fpMul n (fpDiv n (fpOfInt 65536) (gainOf s sub)) (fpSub n (lpc i) p)

/-- S.RESBUF after rewhitening (44_synthesis.md R222, voiced frames only). -/
def rewhiten (s : State) (sub : Fin 4) : Vector F32 626 :=
  let j : Int := firstSample s sub
  if voiced s then
    let r := (indices (j - lagOf s sub - 2) (outEnd s sub)).foldl
      (fun res i => putRes res i (rewhitenOut s sub i)) s.work.resBuf
    (indices (outEnd s sub) j).foldl (fun res i => putRes res i (rewhitenLpc s sub i)) r
  else s.work.resBuf

/-- The residual of sample `i` of the subframe, with S.RESBUF as it is so far (44_synthesis.md R224). -/
def residualAt (s : State) (sub : Fin 4) (res : Vector F32 626) (i : Int) : F32 :=
  let n := s.fresh
  let e := fpDiv n (fpOfInt (rdI s.work.eQ23 i.toNat)) (fpOfInt 8388608)
  if voiced s then
    fpAdd n e (dot n (fun k => resView s res (i - lagOf s sub + 2 - k)) (tapsOf s sub))
  else e

/-- The samples of a subframe, ascending. -/
def samplesOf (s : State) (sub : Fin 4) : List Int :=
  indices (firstSample s sub) (firstSample s sub + nSf s.frame.bw)

/-- S.RESBUF after the whole of 44_synthesis.md R222 and R224. -/
def residualOf (s : State) (sub : Fin 4) : Vector F32 626 :=
  (samplesOf s sub).foldl (fun res i => putRes res i (residualAt s sub res i)) (rewhiten s sub)

/-! ### Short-term synthesis (44_synthesis.md R225) -/

/-- The unclamped filter output of sample `i`, with S.LPCBUF as it is so far. -/
def filterAt (s : State) (sub : Fin 4) (res : Vector F32 626) (lpc : Vector F32 320) (i : Int) : F32 :=
  let n := s.fresh
  let p := dot n (fun k => lpcView s lpc (i - k - 1)) (coefs s sub)
  fpAdd n (fpMul n (fpDiv n (gainOf s sub) (fpOfInt 65536)) (resView s res i)) p

/-- S.LPCBUF after the subframe. -/
def filterOf (s : State) (sub : Fin 4) (res : Vector F32 626) : Vector F32 320 :=
  (samplesOf s sub).foldl (fun lpc i => put lpc i.toNat (filterAt s sub res lpc i)) s.work.lpcBuf

/-- S.OUT after the subframe: the clamped filter output. -/
def outputOf (s : State) (sub : Fin 4) (lpc : Vector F32 320) : Vector F32 320 :=
  (samplesOf s sub).foldl (fun out i => put out i.toNat (fpClamp1 (rd lpc i.toNat 0))) s.work.out

/-! ### The command (44_synthesis.md R226) -/

/-- SYNTH sub. -/
def synth (sub : Fin 4) (s : State) : State :=
  let res := residualOf s sub
  let lpc := filterOf s sub res
  markPhase (.syn sub)
    { s with work := { s.work with resBuf := res, lpcBuf := lpc, out := outputOf s sub lpc } }

/-- The subframe before, if there is one, is synthesised. -/
def priorDone (sub : Fin 4) (s : State) : Bool :=
  match sub with
  | 0 => true
  | 1 => phaseHas s (.syn 0)
  | 2 => phaseHas s (.syn 1)
  | 3 => phaseHas s (.syn 2)

/-- The precondition of SYNTH (70_reset_and_hazards.md R340). -/
def maySynth (sub : Fin 4) (s : State) : Bool :=
  after .erecon (.syn sub) s && phaseHas s (.gain (setOfSubframe s sub)) && priorDone sub s

/-- SYNTH as a command. -/
def execSynth (arg : BitVec 4) (s : State) : Outcome :=
  onSubframe arg (fun sub => command (maySynth sub) (synth sub)) s

end Sys2Proof.Machine
end

