-- ==== Sys2Proof/Machine/Control.lean ====
section
/-! DEFINITION. Frame control: FRAME_BEGIN, FRAME_END, RESET_STATE, DECODE_FRAME (45_frame_control.md). -/

namespace Sys2Proof.Machine

/-! ### Opening a frame -/

/-- What the checks of FRAME_BEGIN answer. -/
inductive FrameCheck where
  | reject (c : ErrCode)
  | accept (bw : Bandwidth) (sig : SigType)
  deriving DecidableEq, Repr

/-- The checks of FRAME_BEGIN in their order (45_frame_control.md R240, 60_exceptions.md R308). -/
def checkFrame (s : State) : FrameCheck :=
  if phaseHas s .f then .reject .sequenceError
  else if s.durationNs.toNat ≠ frameNs then .reject .unsupportedFrameDuration
  else if stereoReq s then .reject .unsupportedStereo
  else
    match bwReq s with
    | none => .reject .unsupportedBandwidth
    | some bw =>
      if s.outCap.toNat < nFrame bw then .reject .outputBufferTooSmall
      else
        match sigTypeIn s with
        | none => .reject .badFrameInfo
        | some sig => if gainsPositive s then .accept bw sig else .reject .badFrameInfo

/-- Bandwidth-change reinitialisation (45_frame_control.md R241): the previous vector and the histories are
cleared and HAVE_DECODED too; PREV_BW stays. -/
def reinit (bw : Bandwidth) (d : Decoder) : Decoder :=
  if d.haveDecoded ∧ bw ≠ d.prevBw then { Decoder.reset with prevBw := d.prevBw } else d

/-- FRAME_BEGIN after its checks (45_frame_control.md R240). -/
def frameBegin (bw : Bandwidth) (sig : SigType) (s : State) : State :=
  let dec := reinit bw s.dec
  { s with
    dec := dec
    frame := { bw := bw, sigType := sig, qoff := qoffIn s, gainQ16 := s.gainIn, first := !dec.haveDecoded }
    work := Work.reset
    phase := 1 }

/-- FRAME_BEGIN as a command. -/
def execFrameBegin (s : State) : Outcome :=
  match checkFrame s with
  | .reject c => raiseError c s
  | .accept bw sig => .next (complete (frameBegin bw sig s))

/-! ### Closing a frame -/

/-- FRAME_END (45_frame_control.md R244): the last 306 outputs, the last D filter outputs and n2 move into
the persistent state, every read before any write. -/
def frameEnd (s : State) : State :=
  let last : Int := nFrame s.frame.bw - 1
  { s with
    dec :=
      { prevNlsf := build 16 fun k => if k < order s then rd s.work.nlsf2 k 0 else 0
        haveDecoded := true
        prevBw := s.frame.bw
        lpcHist := build 16 fun k => if k < order s then lpcView s s.work.lpcBuf (last - k) else 0
        outHist := build 306 fun k => outView s s.work.out (last - k) }
    phase := 0 }

/-- FRAME_END as a command. -/
def execFrameEnd (s : State) : Outcome := command (fun s => phaseHas s (.syn 3)) frameEnd s

/-! ### State reset -/

/-- RESET_STATE: the decoder's state and PHASE, not the host registers (45_frame_control.md R245). -/
def resetState (s : State) : State :=
  { s with dec := Decoder.reset, frame := Latched.reset, work := Work.reset, phase := 0 }

/-- RESET_STATE as a command: legal at any time. -/
def execResetState (s : State) : Outcome := .next (complete (resetState s))

/-! ### Whole frame -/

/-- The LPC commands of one set. -/
def lpcAll (set : Fin 2) (s : State) : State := lpcGainlim set (lpcRange set (lpcConvert set s))

/-- The excitation commands. -/
def excAll (s : State) : State :=
  excRecon (excSigns (excLsb (excShell (excCounts (excRate (excSeed s))))))

/-- The steps of DECODE_FRAME after FRAME_BEGIN, in their order (45_frame_control.md R246). -/
def wholeFrame (s : State) : State :=
  let s := lsfInterp (lsfStab (lsfRecon (lsfS2 (lsfS1 s))))
  let s := if s.work.interp then lpcAll 0 s else s
  let s := lpcAll 1 s
  let s := if voiced s then ltpScale (ltpCoefs (pitchLags s)) else s
  let s := excAll s
  frameEnd (synth 3 (synth 2 (synth 1 (synth 0 s))))

/-- DECODE_FRAME as a command (45_frame_control.md R246): it fails at FRAME_BEGIN with the state unchanged or
completes the frame; DONE is set once, at the end. -/
def execDecodeFrame (s : State) : Outcome :=
  match checkFrame s with
  | .reject c => raiseError c s
  | .accept bw sig => .next (complete (wholeFrame (frameBegin bw sig s)))

end Sys2Proof.Machine
end

