-- ==== Sys2Proof/Machine/Dispatch.lean ====
section
/-! DEFINITION. Which meaning each command has. -/

namespace Sys2Proof.Machine

def exec (i : Instr) (s : State) : Host.Outcome State Fault Refusal :=
  match i with
  | .resetState => Sys2Proof.Machine.execResetState s
  | .frameBegin => Sys2Proof.Machine.execFrameBegin s
  | .lsfS1 => Sys2Proof.Machine.execLsfS1 s
  | .lsfS2 => Sys2Proof.Machine.execLsfS2 s
  | .lsfRecon => Sys2Proof.Machine.execLsfRecon s
  | .lsfStab => Sys2Proof.Machine.execLsfStab s
  | .lsfInterp => Sys2Proof.Machine.execLsfInterp s
  | .lpcConvert set => Sys2Proof.Machine.execLpcConvert set s
  | .lpcRange set => Sys2Proof.Machine.execLpcRange set s
  | .lpcGainlim set => Sys2Proof.Machine.execLpcGainlim set s
  | .pitchLags => Sys2Proof.Machine.execPitchLags s
  | .ltpCoefs => Sys2Proof.Machine.execLtpCoefs s
  | .ltpScale => Sys2Proof.Machine.execLtpScale s
  | .excSeed => Sys2Proof.Machine.execExcSeed s
  | .excRate => Sys2Proof.Machine.execExcRate s
  | .excCounts => Sys2Proof.Machine.execExcCounts s
  | .excShell => Sys2Proof.Machine.execExcShell s
  | .excLsb => Sys2Proof.Machine.execExcLsb s
  | .excSigns => Sys2Proof.Machine.execExcSigns s
  | .excRecon => Sys2Proof.Machine.execExcRecon s
  | .synth sub => Sys2Proof.Machine.execSynth sub s
  | .frameEnd => Sys2Proof.Machine.execFrameEnd s
  | .decodeFrame => Sys2Proof.Machine.execDecodeFrame s

end Sys2Proof.Machine
end

