-- ==== Sys2Proof/Machine/HostPort.lean ====
section
/-! DEFINITION. The host port: the address map (20_memory.md R61), what a word reads as (20_memory.md R62),
what a write does (20_memory.md R65, R66), and the resets (70_reset_and_hazards.md R330, R331). -/

namespace Sys2Proof.Machine

/-! ### The address map -/

/-- A named word of the register space (20_memory.md R61). -/
inductive Loc where
  | id | ctrl | status | cmd | cfg | durationNs | outCap | frameInfo | gainIn (k : Nat) | phase
  | bw | i1 | wQ2 | interp | lag | ltpPer | ltpScaleQ14 | seed | rateLevel | latchedClass | first
  | prevNlsf (k : Nat) | nlsf2 (k : Nat) | nlsf1 (k : Nat) | i2 (k : Nat) | resQ10 (k : Nat)
  | aQ12 (set : Fin 2) (k : Nat) | a32 (set : Fin 2) (k : Nat)
  | pitchLag (k : Nat) | ltpIdx (k : Nat) | bQ7 (k : Nat)
  | pulseCount (k : Nat) | lsbCount (k : Nat)
  | lpcHist (k : Nat) | outHist (k : Nat) | eRaw (k : Nat) | eQ23 (k : Nat) | out (k : Nat)
  | lpcBuf (k : Nat)
  deriving DecidableEq, Repr

/-- A row of the map: `count` words from byte address `base` on, word `k` of them `loc k`. -/
structure MapRow where
  base : Nat
  count : Nat
  loc : Nat → Loc

/-- The address map (20_memory.md R61; log 22), row by row. -/
def addressMap : List MapRow :=
  [⟨0x000, 1, fun _ => .id⟩, ⟨0x004, 1, fun _ => .ctrl⟩, ⟨0x008, 1, fun _ => .status⟩,
   ⟨0x00C, 1, fun _ => .cmd⟩, ⟨0x010, 1, fun _ => .cfg⟩, ⟨0x014, 1, fun _ => .durationNs⟩,
   ⟨0x018, 1, fun _ => .outCap⟩, ⟨0x01C, 1, fun _ => .frameInfo⟩, ⟨0x020, 4, .gainIn⟩,
   ⟨0x030, 1, fun _ => .phase⟩, ⟨0x040, 1, fun _ => .bw⟩, ⟨0x044, 1, fun _ => .i1⟩,
   ⟨0x048, 1, fun _ => .wQ2⟩, ⟨0x04C, 1, fun _ => .interp⟩, ⟨0x050, 1, fun _ => .lag⟩,
   ⟨0x054, 1, fun _ => .ltpPer⟩, ⟨0x058, 1, fun _ => .ltpScaleQ14⟩, ⟨0x05C, 1, fun _ => .seed⟩,
   ⟨0x060, 1, fun _ => .rateLevel⟩, ⟨0x064, 1, fun _ => .latchedClass⟩, ⟨0x068, 1, fun _ => .first⟩] ++
  [⟨0x100, 16, .prevNlsf⟩, ⟨0x140, 16, .nlsf2⟩, ⟨0x180, 16, .nlsf1⟩, ⟨0x1C0, 16, .i2⟩,
   ⟨0x200, 16, .resQ10⟩, ⟨0x240, 16, .aQ12 0⟩, ⟨0x280, 16, .aQ12 1⟩, ⟨0x2C0, 16, .a32 0⟩,
   ⟨0x300, 16, .a32 1⟩, ⟨0x340, 4, .pitchLag⟩, ⟨0x350, 4, .ltpIdx⟩, ⟨0x360, 20, .bQ7⟩,
   ⟨0x3C0, 20, .pulseCount⟩, ⟨0x440, 20, .lsbCount⟩, ⟨0x500, 16, .lpcHist⟩,
   ⟨0x800, 306, .outHist⟩, ⟨0x1000, 320, .eRaw⟩, ⟨0x1800, 320, .eQ23⟩, ⟨0x2000, 320, .out⟩,
   ⟨0x2800, 320, .lpcBuf⟩]

/-- The word at a byte address, none where it is unmapped (20_memory.md R61). -/
def locate (a : Nat) : Option Loc :=
  (addressMap.find? fun r => decide (r.base ≤ a) && decide (a < r.base + 4 * r.count)).map
    fun r => r.loc ((a - r.base) / 4)

/-! ### Reads -/

/-- The word of an element of an array of signed elements (20_memory.md R62). -/
def signedWord {w n : Nat} (v : Vector (BitVec w) n) (k : Nat) : Word := (rd v k 0).signExtend 32

/-- What a named word reads as (20_memory.md R62; CMD reads 0, 10_state.md R24; SOFT_RESET reads 0, 10_state.md
R23). -/
def readLoc (s : State) : Loc → Word
  | .id => 0x53464431
  | .ctrl => BitVec.ofNat 32 (2 * s.irqEn.toNat)
  | .status => statusWord s
  | .cmd => 0
  | .cfg => s.cfg
  | .durationNs => s.durationNs
  | .outCap => s.outCap
  | .frameInfo => s.frameInfo
  | .gainIn k => rd s.gainIn k 0
  | .phase => s.phase
  | .bw => BitVec.ofNat 32 (bwCode s.frame.bw)
  | .i1 => s.work.i1.setWidth 32
  | .wQ2 => s.work.wQ2.setWidth 32
  | .interp => BitVec.ofNat 32 s.work.interp.toNat
  | .lag => s.work.lag.signExtend 32
  | .ltpPer => BitVec.ofNat 32 s.work.ltpPer
  | .ltpScaleQ14 => s.work.ltpScaleQ14.signExtend 32
  | .seed => BitVec.ofNat 32 s.work.seed
  | .rateLevel => BitVec.ofNat 32 s.work.rateLevel
  | .latchedClass => BitVec.ofNat 32 (sigCode s.frame.sigType + 16 * qoffCode s.frame.qoff)
  | .first => BitVec.ofNat 32 s.frame.first.toNat
  | .prevNlsf k => signedWord s.dec.prevNlsf k
  | .nlsf2 k => signedWord s.work.nlsf2 k
  | .nlsf1 k => signedWord s.work.nlsf1 k
  | .i2 k => signedWord s.work.i2 k
  | .resQ10 k => signedWord s.work.resQ10 k
  | .aQ12 set k => signedWord s.work.aQ12[set] k
  | .a32 set k => signedWord s.work.a32[set] k
  | .pitchLag k => signedWord s.work.pitchLag k
  | .ltpIdx k => (rd s.work.ltpIdx k 0).setWidth 32
  | .bQ7 k => signedWord (rd s.work.bQ7 (k / 5) (Vector.replicate 5 0)) (k % 5)
  | .pulseCount k => BitVec.ofNat 32 (rd s.work.pulseCount k 0)
  | .lsbCount k => BitVec.ofNat 32 (rd s.work.lsbCount k 0)
  | .lpcHist k => rd s.dec.lpcHist k 0
  | .outHist k => rd s.dec.outHist k 0
  | .eRaw k => signedWord s.work.eRaw k
  | .eQ23 k => signedWord s.work.eQ23 k
  | .out k => rd s.work.out k 0
  | .lpcBuf k => rd s.work.lpcBuf k 0

/-- The word the host reads at a byte address: 0 where it is unmapped (20_memory.md R65). Reading changes
nothing (20_memory.md R66). -/
def readWord (s : State) (a : Nat) : Word :=
  match locate a with
  | some loc => readLoc s loc
  | none => 0

/-- The byte of the register space at a byte address: little-endian (20_memory.md R63). -/
def readByte (s : State) (a : Nat) : BitVec 8 :=
  (readWord s (a - a % 4)).extractLsb' (8 * (a % 4)) 8

/-! ### Resets -/

/-- The reset of the block (70_reset_and_hazards.md R330): every register and state element takes its reset
value. What is not the block's stays: the accesses to come, the last word read, the cursor (which the block
does not reset), the parameter record and the counter of free values (log 19). -/
def resetBlock (s : State) : State :=
  { State.reset with
    bus := s.bus, rdata := s.rdata, cursor := s.cursor, tables := s.tables, fresh := s.fresh }

/-! ### Writes -/

/-- A write to CMD: the command of the word, or ILLEGAL_COMMAND (30_encoding.md R80, R81, R83). -/
def runCommand (w : Word) (s : State) : Outcome :=
  match decode w with
  | .ok i => exec i s
  | .reject _ => raiseError .illegalCommand s

/-- A write to CTRL: SOFT_RESET resets the block whatever the other bits are; else IRQ_EN is written
(10_state.md R23, 70_reset_and_hazards.md R331). -/
def writeCtrl (v : Word) (s : State) : State :=
  if v.getLsbD 0 then resetBlock s else { s with irqEn := v.getLsbD 1 }

/-- The bits of CFG and FRAMEINFO that exist: 1:0 and 4. Reserved bits read 0 and ignore writes
(10_state.md R25, R27). -/
def fieldMask : Word := 0x13

/-- What a word write does at a named word; at a read-only word nothing (20_memory.md R65, R66). -/
def writeLoc (v : Word) (s : State) : Loc → Outcome
  | .cmd => runCommand v s
  | .ctrl => .next (writeCtrl v s)
  | .status => .next (clearStatus v s)
  | .cfg => .next { s with cfg := v &&& fieldMask }
  | .durationNs => .next { s with durationNs := v }
  | .outCap => .next { s with outCap := v }
  | .frameInfo => .next { s with frameInfo := v &&& fieldMask }
  | .gainIn k => .next { s with gainIn := put s.gainIn k v }
  | .id | .phase | .bw | .i1 | .wQ2 | .interp | .lag | .ltpPer | .ltpScaleQ14 | .seed | .rateLevel
  | .latchedClass | .first | .prevNlsf _ | .nlsf2 _ | .nlsf1 _ | .i2 _ | .resQ10 _ | .aQ12 _ _
  | .a32 _ _ | .pitchLag _ | .ltpIdx _ | .bQ7 _ | .pulseCount _ | .lsbCount _ | .lpcHist _
  | .outHist _ | .eRaw _ | .eQ23 _ | .out _ | .lpcBuf _ => .next s

/-- What a word write does at a byte address; at an unmapped word nothing (20_memory.md R65). -/
def writeWord (a : Nat) (v : Word) (s : State) : Outcome :=
  match locate a with
  | some loc => writeLoc v s loc
  | none => .next s

/-! ### One access -/

/-- An admitted access: 4 bytes at a multiple of 4 (20_memory.md R75). -/
def wordAccess (size : Nat) (a : BitVec 14) : Bool := size == 4 && a.toNat % 4 == 0

/-- Serve one access of the host, or the reset input. -/
def serve (s : State) : BusOp → Outcome
  | .resetPin => .next (resetBlock s)
  | .read size a =>
    if wordAccess size a then .next { s with rdata := readWord s a.toNat } else .refused .notWordAccess
  | .write size a v => if wordAccess size a then writeWord a.toNat v s else .refused .notWordAccess

/-- The byte address of CMD (20_memory.md R61). -/
def cmdAddr : BitVec 14 := 0x00C

end Sys2Proof.Machine
end

