-- ==== Sys2Proof/Machine/Step.lean ====
section
/-! DEFINITION. One step: the next access of the host is served, with a CMD write's whole command
(20_memory.md R67, 70_reset_and_hazards.md R341). -/

namespace Sys2Proof.Machine

/-- One step. The host's next access leaves the port and is served; with none to come the block does nothing
(00_scope.md R7: the engine never steps unless the host has written a command; log 24). -/
def step (s : State) : Host.Outcome State Fault Refusal :=
  match s.bus with
  | [] => .next s
  | op :: rest => serve { s with bus := rest } op

/-- The state with a write of the command word to CMD put before the host's other accesses, so that the very
next step runs it (log 11). -/
def State.withFetchWord (s : State) (nbits w : Nat) : State :=
  { s with bus := .write 4 cmdAddr (tableWord nbits w) :: s.bus }

end Sys2Proof.Machine
end

