-- ==== Sys2Proof/Safety.lean ====
section
/-! DEFINITION. The terms claims about the block are stated in: what the cursor may answer, what holds of
every state a run reaches, and when a run is safe. -/

namespace Sys2Proof

open Machine

/-- `v` is an answer the cursor may give to `Sym(tab)`: an index of the table whose probability
`p(v) = (v = 0 ? 256 : tab[v-1]) - tab[v]` is positive (20_memory.md R71). -/
def IsAnswer (tab : Icdf) (v : Nat) : Prop :=
  v < tab.length ∧ tab.getD v 0 < if v = 0 then 256 else tab.getD (v - 1) 0

/-- The commands of a list in order, from a state; stops at the first that answers no next state. -/
def runCommands : List Instr → State → Host.Outcome State Fault Refusal
  | [], s => .next s
  | i :: is, s =>
    match exec i s with
    | .next t => runCommands is t
    | .fault r => .fault r
    | .refused r => .refused r

/-- `pairs` are the requests a command makes, each a table and the answer to it, where the cursor's fixed answers
are these in order and then `rest` (20_memory.md R70, R71). -/
def Answers (s : State) (pairs : List (Icdf × Nat)) (rest : List Nat) : Prop :=
  (∀ p ∈ pairs, IsAnswer p.1 p.2) ∧ s.cursor.script = pairs.map (·.2) ++ rest

/-- The requests that split a partition of `2^h` samples into the magnitudes `ms`: the sum of the left half, where
the partition holds a pulse, then the left half's, then the right half's (43_excitation.md R195). -/
def shellRequests (rows : List (List Icdf)) : (h : Nat) → (ms : List Nat) → List (Icdf × Nat)
  | 0, _ => []
  | h + 1, ms =>
    let left := ms.take (2 ^ h)
    let right := ms.drop (2 ^ h)
    (if ms.sum = 0 then [] else [((rows.getD h []).getD (ms.sum - 1) [], left.sum)]) ++
      shellRequests rows h left ++ shellRequests rows h right

/-- EXC_SIGNS reads a sign for sample `i`: a magnitude above 0 in a block that holds pulses or LSB levels
(43_excitation.md R197). -/
abbrev ReadsSign (s : State) (i : Nat) : Prop :=
  (0 < rd s.work.pulseCount (i / 16) 0 ∨ 0 < rd s.work.lsbCount (i / 16) 0) ∧ 0 < rdI s.work.eRaw i

/-! ### Bandwidth expansion (41_lpc.md R144, R145, R147) -/

/-- The running factor of BWEXPAND at coefficient `k` (41_lpc.md R145). -/
def chirpAt (sc : Int) : Nat → Int
  | 0 => sc
  | k + 1 => (chirpAt sc k * sc + 32768) / 65536

/-- `b` is BWEXPAND(`a`, `sc`) on the first `d` coefficients (41_lpc.md R145). -/
def Expands (d : Nat) (sc : Int) (a b : Nat → Int) : Prop :=
  ∀ k, k < d → b k = chirpAt sc k * a k / 65536

/-- `b` is `a` after one round of LPC_RANGE: the largest magnitude, at its first index, does not fit Q12, and the
vector is expanded by the factor of that magnitude and index (41_lpc.md R144). -/
def RangeRound (d : Nat) (a b : Nat → Int) : Prop :=
  ∃ idx, idx < d ∧ (∀ k, k < d → absI (a k) ≤ absI (a idx)) ∧ (∀ k, k < idx → absI (a k) < absI (a idx)) ∧
    let q := min ((absI (a idx) + 16) / 32) 163838
    32767 < q ∧
    Expands d (65470 - Int.tdiv ((q - 32767) * 16384) (q * ((idx : Int) + 1) / 4)) a b

/-! ### What holds of every state a run reaches -/

/-- Reserved bits of CFG, FRAMEINFO and PHASE are 0, and ERRCODE is one of the codes 1 to 7 while ERR is set
and 0 while it is not (10_state.md R22, R25, R27, R29, 60_exceptions.md R300). -/
def ReservedZero (s : State) : Prop :=
  s.cfg &&& ~~~0x13#32 = 0 ∧ s.frameInfo &&& ~~~0x13#32 = 0 ∧ s.phase.toNat < 2 ^ 26 ∧
  (s.err = true → 1 ≤ s.errCode.toNat ∧ s.errCode.toNat ≤ 7) ∧ (s.err = false → s.errCode = 0)

/-- Bit `x` of PHASE is set only with bit `y`. -/
def Needs (s : State) (x y : PhaseBit) : Prop := phaseHas s x = true → phaseHas s y = true

/-- PHASE records a frame in an order the preconditions allow: every bit is set only after the bits its
command needs (70_reset_and_hazards.md R340). -/
def PhaseOrdered (s : State) : Prop :=
  Needs s .s1 .f ∧ Needs s .s2 .s1 ∧ Needs s .recon .s2 ∧ Needs s .stab .recon ∧ Needs s .interp .stab ∧
  (∀ set : Fin 2, Needs s (.conv set) .interp ∧ Needs s (.range set) (.conv set) ∧
    Needs s (.gain set) (.range set)) ∧
  (phaseHas s (.conv 0) = true → s.work.interp = true) ∧
  Needs s .pitch .interp ∧ (phaseHas s .pitch = true → s.frame.sigType = .voiced) ∧
  Needs s .ltpc .pitch ∧ Needs s .ltps .ltpc ∧
  Needs s .seed .interp ∧
  (phaseHas s .seed = true → s.frame.sigType = .voiced → phaseHas s .ltps = true) ∧
  Needs s .rate .seed ∧ Needs s .counts .rate ∧ Needs s .shell .counts ∧ Needs s .lsb .shell ∧
  Needs s .signs .lsb ∧ Needs s .erecon .signs ∧
  (∀ sub : Fin 4, Needs s (.syn sub) .erecon ∧ Needs s (.syn sub) (.gain (setOfSubframe s sub))) ∧
  Needs s (.syn 1) (.syn 0) ∧ Needs s (.syn 2) (.syn 1) ∧ Needs s (.syn 3) (.syn 2)

/-- The excitation of the open frame as far as PHASE says it is decoded: 0 before EXC_SHELL, magnitudes of at
most 16 before EXC_LSB, not negative before EXC_SIGNS; at any time of magnitude at most 17407
(43_excitation.md R195 to R197). -/
def RawInRange (s : State) : Prop :=
  ∀ k, k < 320 →
    (phaseHas s .f = true → phaseHas s .shell = false → rdI s.work.eRaw k = 0) ∧
    (phaseHas s .f = true → phaseHas s .lsb = false →
      0 ≤ rdI s.work.eRaw k ∧ rdI s.work.eRaw k ≤ 16) ∧
    (phaseHas s .f = true → phaseHas s .signs = false → 0 ≤ rdI s.work.eRaw k) ∧
    -17407 ≤ rdI s.work.eRaw k ∧ rdI s.work.eRaw k ≤ 17407

/-- The LSF elements lie in the ranges of 10_state.md R37: S.I1 selects a stage-1 vector, S.I2 lies in -10..10,
S.W_Q2 in 0..W_MAX and the vectors n2 and n0 in 0..32767. For n1 that is so with W_MAX at most 4; the blend of
40_lsf.md R112 with a larger factor can leave it. -/
def LsfInRange (s : State) : Prop :=
  s.work.i1.toNat < s.tables.val.nCb1 ∧
  (∀ k, k < 16 → -10 ≤ rdI s.work.i2 k ∧ rdI s.work.i2 k ≤ 10) ∧
  s.work.wQ2.toNat ≤ s.tables.val.wMax ∧
  (∀ k, k < 16 → 0 ≤ rdI s.work.nlsf2 k ∧ 0 ≤ rdI s.dec.prevNlsf k) ∧
  (s.tables.val.wMax ≤ 4 → ∀ k, k < 16 → 0 ≤ rdI s.work.nlsf1 k)

/-- Elements lie in the ranges of 10_state.md R37, R39 and R40, the gains of an open frame are positive
(10_state.md R28, 60_exceptions.md R306), and decoded pitch lags are valid for the bandwidth (42_ltp.md R171). -/
def InRange (s : State) : Prop :=
  LsfInRange s ∧
  s.work.seed < 4 ∧ s.work.rateLevel < 9 ∧ s.work.ltpPer < 3 ∧
  (∀ b, b < 20 → rd s.work.pulseCount b 0 ≤ 16 ∧ rd s.work.lsbCount b 0 ≤ 10) ∧
  (phaseHas s .f = true → ∀ k, k < 4 → 0 < rdI s.frame.gainQ16 k) ∧
  (phaseHas s .pitch = true → ∀ k, k < 4 →
    (lagMin s.frame.bw : Int) ≤ rdI s.work.pitchLag k ∧ rdI s.work.pitchLag k ≤ lagMax s.frame.bw) ∧
  RawInRange s

/-- What every step keeps of the open frame. -/
def FrameInv (s : State) : Prop :=
  PhaseOrdered s ∧ InRange s ∧ (phaseHas s .f = true → s.frame.first = !s.dec.haveDecoded)

/-! ### Safe runs -/

/-- An access the block admits: 4 bytes at a multiple of 4 (20_memory.md R75); the reset input always is. -/
def Admitted : BusOp → Prop
  | .resetPin => True
  | .read size a => size = 4 ∧ a.toNat % 4 = 0
  | .write size a _ => size = 4 ∧ a.toNat % 4 = 0

/-- Every access still to come is admitted. A run from such a state is safe: no step of it stops. -/
def PortAdmitted (s : State) : Prop := ∀ op, op ∈ s.bus → Admitted op

/-! ### Reset values (10_state.md R45) -/

/-- Every element of an array is `d`. -/
def AllAre {α : Type} {n : Nat} (v : Vector α n) (d : α) : Prop := ∀ k (h : k < n), v[k] = d

/-- The persistent state is cleared: 0 and +0.0, no frame decoded (10_state.md R45). -/
def DecoderCleared (d : Decoder) : Prop :=
  AllAre d.prevNlsf 0 ∧ d.haveDecoded = false ∧ AllAre d.lpcHist 0 ∧ AllAre d.outHist 0

/-- The latched parameters hold their reset values (10_state.md R45). -/
def LatchedCleared (f : Latched) : Prop :=
  f.bw = .nb ∧ f.sigType = .inactive ∧ f.qoff = .low ∧ AllAre f.gainQ16 0 ∧ f.first = true

/-- The working state holds its reset values: 0 and +0.0, S.LTP_SCALE_Q14 = 16384 (10_state.md R45). -/
def WorkCleared (w : Work) : Prop :=
  w.i1 = 0 ∧ AllAre w.i2 0 ∧ AllAre w.resQ10 0 ∧ AllAre w.nlsf2 0 ∧ AllAre w.nlsf1 0 ∧ w.wQ2 = 0 ∧
  w.interp = false ∧ (∀ set : Fin 2, AllAre w.a32[set] 0 ∧ AllAre w.aQ12[set] 0) ∧ w.lag = 0 ∧
  AllAre w.pitchLag 0 ∧ w.ltpPer = 0 ∧ AllAre w.ltpIdx 0 ∧ (∀ sub : Fin 4, AllAre w.bQ7[sub] 0) ∧
  w.ltpScaleQ14 = 16384 ∧ w.seed = 0 ∧ w.rateLevel = 0 ∧ AllAre w.pulseCount 0 ∧
  AllAre w.lsbCount 0 ∧ AllAre w.eRaw 0 ∧ AllAre w.eQ23 0 ∧ AllAre w.resBuf 0 ∧ AllAre w.lpcBuf 0 ∧
  AllAre w.out 0

/-- Every element of the table of 10_state.md R45 holds its reset value. -/
def ResetValues (s : State) : Prop :=
  readWord s 0x000 = 0x53464431 ∧ statusWord s = 0 ∧ s.irqEn = false ∧ s.cfg = 0 ∧
  s.durationNs = 0 ∧ s.outCap = 0 ∧ s.frameInfo = 0 ∧ AllAre s.gainIn 0 ∧ s.phase = 0 ∧
  DecoderCleared s.dec ∧ s.dec.prevBw = .nb ∧ LatchedCleared s.frame ∧ WorkCleared s.work

/-! ### Preconditions and arguments -/

/-- The precondition of a well-formed command, with the PHASE bits by their numbers in 10_state.md R29
(70_reset_and_hazards.md R340). -/
def Precondition (s : State) : Instr → Bool
  | .resetState => true
  | .frameBegin | .decodeFrame => !s.phase.getLsbD 0
  | .lsfS1 => s.phase.getLsbD 0 && !s.phase.getLsbD 1
  | .lsfS2 => s.phase.getLsbD 1 && !s.phase.getLsbD 2
  | .lsfRecon => s.phase.getLsbD 2 && !s.phase.getLsbD 3
  | .lsfStab => s.phase.getLsbD 3 && !s.phase.getLsbD 4
  | .lsfInterp => s.phase.getLsbD 4 && !s.phase.getLsbD 5
  | .lpcConvert set =>
    if set = 0 then s.phase.getLsbD 5 && s.work.interp && !s.phase.getLsbD 6
    else s.phase.getLsbD 5 && !s.phase.getLsbD 9
  | .lpcRange set =>
    if set = 0 then s.phase.getLsbD 6 && !s.phase.getLsbD 7
    else s.phase.getLsbD 9 && !s.phase.getLsbD 10
  | .lpcGainlim set =>
    if set = 0 then s.phase.getLsbD 7 && !s.phase.getLsbD 8
    else s.phase.getLsbD 10 && !s.phase.getLsbD 11
  | .pitchLags => s.phase.getLsbD 5 && (s.frame.sigType == .voiced) && !s.phase.getLsbD 12
  | .ltpCoefs => s.phase.getLsbD 12 && !s.phase.getLsbD 13
  | .ltpScale => s.phase.getLsbD 13 && !s.phase.getLsbD 14
  | .excSeed =>
    s.phase.getLsbD 5 && ((s.frame.sigType != .voiced) || s.phase.getLsbD 14) && !s.phase.getLsbD 15
  | .excRate => s.phase.getLsbD 15 && !s.phase.getLsbD 16
  | .excCounts => s.phase.getLsbD 16 && !s.phase.getLsbD 17
  | .excShell => s.phase.getLsbD 17 && !s.phase.getLsbD 18
  | .excLsb => s.phase.getLsbD 18 && !s.phase.getLsbD 19
  | .excSigns => s.phase.getLsbD 19 && !s.phase.getLsbD 20
  | .excRecon => s.phase.getLsbD 20 && !s.phase.getLsbD 21
  | .synth sub =>
    s.phase.getLsbD 21 &&
    s.phase.getLsbD (if s.work.interp = true ∧ sub.toNat < 2 then 8 else 11) &&
    (sub == 0 || s.phase.getLsbD (21 + sub.toNat)) && !s.phase.getLsbD (22 + sub.toNat)
  | .frameEnd => s.phase.getLsbD 25

/-- The samples of a frame of the requested bandwidth: 160, 240 or 320 (00_scope.md R5). -/
def samplesFor (bwCode : Nat) : Nat := [160, 240, 320].getD bwCode 0

/-- The arguments of a FRAME_BEGIN pass its checks (45_frame_control.md R240). -/
def ArgumentsOk (s : State) : Prop :=
  s.phase.getLsbD 0 = false ∧ s.durationNs.toNat = 20000000 ∧ s.cfg.getLsbD 4 = false ∧
  s.cfg.toNat % 4 < 3 ∧ samplesFor (s.cfg.toNat % 4) ≤ s.outCap.toNat ∧ s.frameInfo.toNat % 4 < 3 ∧
  ∀ k, k < 4 → 0 < rdI s.gainIn k

/-- A state with other contents of the registers that FRAME_BEGIN reads (10_state.md R25 to R28). -/
def withArguments (cfg dur cap info : Word) (gains : Vector Word 4) (s : State) : State :=
  { s with cfg := cfg, durationNs := dur, outCap := cap, frameInfo := info, gainIn := gains }

/-- The value of a float as a rational, none where it is infinite or a NaN. -/
def rationalOf (x : F32) : Option ℚ :=
  match fpVal x with
  | .nan | .inf _ => none
  | .fin neg m e => some ((if neg then -1 else 1) * (m : ℚ) * (2 : ℚ) ^ e)

/-- `y` is the real `x` rounded once to binary32 (44_synthesis.md R220): an infinity where `x` is at least half a
place above the largest finite value, else the nearest value and, between two equally near, the one whose last bit
is 0; the sign of `x` is kept. -/
def Rounds (x : ℚ) (y : F32) : Prop :=
  (x < 0 → y.msb = true) ∧ (0 < x → y.msb = false) ∧
  ((2 : ℚ) ^ 128 - 2 ^ 103 ≤ |x| → fpVal y = .inf (decide (x < 0))) ∧
  (|x| < (2 : ℚ) ^ 128 - 2 ^ 103 → ∃ q : ℚ, rationalOf y = some q ∧
    ∀ (z : F32) (r : ℚ), rationalOf z = some r →
      |q - x| ≤ |r - x| ∧ (|q - x| = |r - x| → q ≠ r → y.getLsbD 0 = false))

end Sys2Proof
end

