-- ==== Sys2Proof/Certificates/Slice0/Obligations.lean ====
section
/-! DEFINITION. The statements for the provers. `t.fresh` in a next state is the model's own counter of free
values: no statement says what it is. -/

open Sys2Proof Sys2Proof.Machine

/-! ### Command words -/

/-- 30_encoding.md R81, R84: a word decodes to a command exactly when it is the command's encoding and the
operand is one the command admits. -/
def Obligations.WordsDecodeExactlyToTheirCommand : Prop :=
  ∀ (w : Word) (i : Instr), decode w = .ok i ↔ i.wf = true ∧ w = encode i

/-- 30_encoding.md R83: a word written to CMD that no row of the table matches with a legal ARG and RSV = 0
raises ILLEGAL_COMMAND, whatever the state, and changes nothing else. -/
def Obligations.WordsOutsideTheTableAreIllegal : Prop :=
  ∀ (s : State) (rest : List BusOp) (w : Word), s.bus = .write 4 0x00C w :: rest →
    ¬(w.extractLsb' 12 20 = 0 ∧
      ((w.extractLsb' 0 8 ∈ ([0x20, 0x21, 0x22] : List (BitVec 8)) ∧ (w.extractLsb' 8 4).toNat < 2) ∨
       (w.extractLsb' 0 8 = 0x50 ∧ (w.extractLsb' 8 4).toNat < 4) ∨
       (w.extractLsb' 0 8 ∈ ([0x01, 0x02, 0x10, 0x11, 0x12, 0x13, 0x14, 0x30, 0x31, 0x32, 0x40, 0x41,
          0x42, 0x43, 0x44, 0x45, 0x46, 0x51, 0x7F] : List (BitVec 8)) ∧
        w.extractLsb' 8 4 = 0))) →
    step s = .next { s with bus := rest, err := true, errCode := 5 }

/-- 30_encoding.md R81: a command whose operand is not one it admits raises ILLEGAL_COMMAND and changes nothing
else. That a command with such an operand can be stated at all is the model's (log 15). -/
def Obligations.UnadmittedOperandsAreIllegal : Prop :=
  ∀ (i : Instr) (s : State), i.wf = false → exec i s = .next { s with err := true, errCode := 5 }

/-- 30_encoding.md R86: words of every family decode to their commands. -/
def Obligations.SampleWordsDecode : Prop :=
  decode 0x00000001 = .ok .resetState ∧ decode 0x00000002 = .ok .frameBegin ∧
  decode 0x00000014 = .ok .lsfInterp ∧ decode 0x00000122 = .ok (.lpcGainlim 1) ∧
  decode 0x00000032 = .ok .ltpScale ∧ decode 0x00000045 = .ok .excSigns ∧
  decode 0x00000350 = .ok (.synth 3) ∧ decode 0x00000051 = .ok .frameEnd ∧
  decode 0x0000007F = .ok .decodeFrame

/-! ### Steps and the host port -/

/-- 20_memory.md R67, 30_encoding.md R80: a step that serves a write of a command's word to CMD is the command
at the state without that access. -/
def Obligations.StepRunsTheWrittenCommand : Prop :=
  ∀ (s : State) (rest : List BusOp) (w : Word) (i : Instr),
    s.bus = .write 4 0x00C w :: rest → decode w = .ok i → step s = exec i { s with bus := rest }

/-- 20_memory.md R75: a step refuses an access that is not 4 bytes at a multiple of 4. That every other step answers
a next state is the model's: log 13 for the accesses and the commands they run, log 24 for a step with no access to
come. -/
def Obligations.StepRefusesExactlyUnadmittedAccesses : Prop :=
  (∀ (s : State) (op : BusOp) (rest : List BusOp), s.bus = op :: rest → ¬Admitted op →
    step s = .refused .notWordAccess) ∧
  (∀ s : State, (∀ (op : BusOp) (rest : List BusOp), s.bus = op :: rest → Admitted op) →
    ∃ t : State, step s = .next t)

/-- A run over admitted accesses never stops, whatever the commands, the cursor's answers and the parameter record.
60_exceptions.md R309 has no command stop the block; that no step faults or is refused is the model's (log 13), and so
is that a run goes on past its last access (log 24). -/
def Obligations.AdmittedRunsNeverStop : Prop :=
  ∀ (n : Nat) (s : State), PortAdmitted s →
    ∃ t : State, Host.Core.run Sys2Proof.core n s = .next t ∧ PortAdmitted t

/-- 20_memory.md R65: a write to an unmapped word or to a read-only register or window is ignored. -/
def Obligations.ReadOnlyAndUnmappedWritesAreIgnored : Prop :=
  ∀ (s : State) (rest : List BusOp) (a : BitVec 14) (v : Word), s.bus = .write 4 a v :: rest →
    a.toNat % 4 = 0 →
    a.toNat ∉ [0x004, 0x008, 0x00C, 0x010, 0x014, 0x018, 0x01C, 0x020, 0x024, 0x028, 0x02C] →
    step s = .next { s with bus := rest }

/-- 20_memory.md R65, R66, R67: a read of 4 bytes at a multiple of 4, mapped or not, answers the word at that address
and changes nothing else; an unmapped word is 0. -/
def Obligations.UnmappedWordsReadZero : Prop :=
  (∀ (s : State) (rest : List BusOp) (a : BitVec 14), s.bus = .read 4 a :: rest → a.toNat % 4 = 0 →
    step s = .next { s with bus := rest, rdata := readWord s a.toNat }) ∧
  (∀ (s : State) (a : Nat), a % 4 = 0 →
    (∃ h ∈ [(0x034, 0x040), (0x06C, 0x100), (0x3B0, 0x3C0), (0x410, 0x440), (0x490, 0x500),
        (0x540, 0x800), (0xCC8, 0x1000), (0x1500, 0x1800), (0x1D00, 0x2000), (0x2500, 0x2800),
        (0x2D00, 0x4000)], h.1 ≤ a ∧ a < h.2) →
    readWord s a = 0)

/-- 20_memory.md R61, R62: what every named word of the register space reads as. -/
def Obligations.NamedWordsReadTheirElements : Prop :=
  ∀ s : State,
    (readWord s 0x000 = 0x53464431 ∧ readWord s 0x004 = (if s.irqEn then 2 else 0) ∧
    readWord s 0x00C = 0 ∧ readWord s 0x010 = s.cfg ∧ readWord s 0x014 = s.durationNs ∧
    readWord s 0x018 = s.outCap ∧ readWord s 0x01C = s.frameInfo ∧ readWord s 0x030 = s.phase ∧
    (readWord s 0x040).toNat = bwCode s.frame.bw ∧ readWord s 0x044 = s.work.i1.setWidth 32 ∧
    readWord s 0x048 = s.work.wQ2.setWidth 32 ∧ readWord s 0x04C = (if s.work.interp then 1 else 0) ∧
    readWord s 0x050 = s.work.lag.signExtend 32 ∧
    readWord s 0x054 = BitVec.ofNat 32 s.work.ltpPer ∧
    readWord s 0x058 = s.work.ltpScaleQ14.signExtend 32 ∧
    readWord s 0x05C = BitVec.ofNat 32 s.work.seed ∧
    readWord s 0x060 = BitVec.ofNat 32 s.work.rateLevel ∧
    (readWord s 0x064).toNat = sigCode s.frame.sigType + 16 * qoffCode s.frame.qoff ∧
    readWord s 0x068 = (if s.frame.first then 1 else 0)) ∧
    (∀ k (h : k < 4), readWord s (0x020 + 4 * k) = s.gainIn[k] ∧
      readWord s (0x340 + 4 * k) = (s.work.pitchLag[k]).signExtend 32 ∧
      readWord s (0x350 + 4 * k) = (s.work.ltpIdx[k]).setWidth 32 ∧
      ∀ t (h' : t < 5),
        readWord s (0x360 + 4 * (5 * k + t)) = ((s.work.bQ7[k])[t]).signExtend 32) ∧
    (∀ k (h : k < 16), readWord s (0x100 + 4 * k) = (s.dec.prevNlsf[k]).signExtend 32 ∧
      readWord s (0x140 + 4 * k) = (s.work.nlsf2[k]).signExtend 32 ∧
      readWord s (0x180 + 4 * k) = (s.work.nlsf1[k]).signExtend 32 ∧
      readWord s (0x1C0 + 4 * k) = (s.work.i2[k]).signExtend 32 ∧
      readWord s (0x200 + 4 * k) = s.work.resQ10[k] ∧
      readWord s (0x240 + 4 * k) = ((s.work.aQ12[0])[k]).signExtend 32 ∧
      readWord s (0x280 + 4 * k) = ((s.work.aQ12[1])[k]).signExtend 32 ∧
      readWord s (0x2C0 + 4 * k) = (s.work.a32[0])[k] ∧
      readWord s (0x300 + 4 * k) = (s.work.a32[1])[k] ∧
      readWord s (0x500 + 4 * k) = s.dec.lpcHist[k]) ∧
    (∀ k (h : k < 20), readWord s (0x3C0 + 4 * k) = BitVec.ofNat 32 s.work.pulseCount[k] ∧
      readWord s (0x440 + 4 * k) = BitVec.ofNat 32 s.work.lsbCount[k]) ∧
    (∀ k (h : k < 306), readWord s (0x800 + 4 * k) = s.dec.outHist[k]) ∧
    (∀ k (h : k < 320), readWord s (0x1000 + 4 * k) = s.work.eRaw[k] ∧
      readWord s (0x1800 + 4 * k) = s.work.eQ23[k] ∧ readWord s (0x2000 + 4 * k) = s.work.out[k] ∧
      readWord s (0x2800 + 4 * k) = s.work.lpcBuf[k])

/-- 10_state.md R22, R23, R25 to R28, 60_exceptions.md R312: what a write to a register does. A configuration
register keeps the value with its reserved bits dropped; CTRL without SOFT_RESET sets IRQ_EN; in STATUS a 1 to
DONE clears it, a 1 to ERR clears ERR and ERRCODE, a 0 leaves them. Nothing else changes. -/
def Obligations.RegisterWritesActOnTheirFields : Prop :=
  ∀ (s : State) (rest : List BusOp) (v : Word),
    (s.bus = .write 4 0x004 v :: rest → v.getLsbD 0 = false →
      step s = .next { s with bus := rest, irqEn := v.getLsbD 1 }) ∧
    (s.bus = .write 4 0x008 v :: rest →
      step s = .next { s with
        bus := rest
        done := if v.getLsbD 1 then false else s.done
        err := if v.getLsbD 2 then false else s.err
        errCode := if v.getLsbD 2 then 0 else s.errCode }) ∧
    (s.bus = .write 4 0x010 v :: rest → step s = .next { s with bus := rest, cfg := v &&& 0x13 }) ∧
    (s.bus = .write 4 0x014 v :: rest → step s = .next { s with bus := rest, durationNs := v }) ∧
    (s.bus = .write 4 0x018 v :: rest → step s = .next { s with bus := rest, outCap := v }) ∧
    (s.bus = .write 4 0x01C v :: rest → step s = .next { s with bus := rest, frameInfo := v &&& 0x13 }) ∧
    ∀ k (h : k < 4), s.bus = .write 4 (BitVec.ofNat 14 (0x020 + 4 * k)) v :: rest →
      step s = .next { s with bus := rest, gainIn := s.gainIn.set k v }

/-- 10_state.md R22: the fields of STATUS; BUSY and every reserved bit read 0. -/
def Obligations.StatusReadsItsFields : Prop :=
  ∀ s : State,
    let w := readWord s 0x008
    w.getLsbD 0 = false ∧ w.getLsbD 1 = s.done ∧ w.getLsbD 2 = s.err ∧ w.extractLsb' 3 5 = 0 ∧
    w.extractLsb' 8 4 = s.errCode ∧ w.extractLsb' 12 4 = 0 ∧ w.getLsbD 16 = s.dec.haveDecoded ∧
    w.getLsbD 17 = s.phase.getLsbD 0 ∧ (w.extractLsb' 18 2).toNat = bwCode s.dec.prevBw ∧
    w.extractLsb' 20 12 = 0

/-- 70_reset_and_hazards.md R330, R331, 10_state.md R45: hardware reset and a write of 1 to SOFT_RESET, whatever
the other bits, give every register and state element its reset value. What stays is not the block's: the
accesses to come, the last word read, the cursor, the parameter record (log 1, log 2, log 3: the model's own
fields). -/
def Obligations.ResetsRestoreResetValues : Prop :=
  ∀ (s : State) (rest : List BusOp) (op : BusOp), s.bus = op :: rest →
    (op = .resetPin ∨ ∃ v : Word, op = .write 4 0x004 v ∧ v.getLsbD 0 = true) →
    ∃ t : State, step s = .next t ∧ ResetValues t ∧ t.bus = rest ∧ t.rdata = s.rdata ∧
      t.cursor = s.cursor ∧ t.tables = s.tables

/-- 10_state.md R45: the state after hardware reset holds every reset value. -/
def Obligations.ResetStateHoldsResetValues : Prop := ResetValues State.reset

/-! ### Errors and completion -/

/-- 60_exceptions.md R310, R311, R315, R316: every command answers a next state, which differs from the state
before in STATUS.ERR and ERRCODE alone (an error, with a code from 1 to 7), or has DONE set and ERR and ERRCODE
unchanged (completion); either way the interrupt line is then the enable. -/
def Obligations.CommandsCompleteOrChangeOnlyTheErrorFields : Prop :=
  ∀ (i : Instr) (s : State), ∃ t : State, exec i s = .next t ∧ irq t = s.irqEn ∧
    ((∃ c : BitVec 4, 1 ≤ c.toNat ∧ c.toNat ≤ 7 ∧ t = { s with err := true, errCode := c }) ∨
     (t.done = true ∧ t.err = s.err ∧ t.errCode = s.errCode))

/-- 70_reset_and_hazards.md R340, 60_exceptions.md R307: a command whose precondition is false raises
SEQUENCE_ERROR and changes nothing else; where it is true the command completes, but for the argument errors
of FRAME_BEGIN and DECODE_FRAME. -/
def Obligations.PreconditionsDecideSequenceErrors : Prop :=
  ∀ (i : Instr) (s : State), i.wf = true →
    (Precondition s i = false → exec i s = .next { s with err := true, errCode := 6 }) ∧
    (Precondition s i = true → ∃ t : State, exec i s = .next t ∧
      ((t.done = true ∧ t.err = s.err ∧ t.errCode = s.errCode) ∨
       ((i = .frameBegin ∨ i = .decodeFrame) ∧ ∃ c ∈ ([1, 2, 3, 4, 7] : List (BitVec 4)),
        t = { s with err := true, errCode := c })))

/-- 60_exceptions.md R301 to R306, R308: with no frame open, the first failing argument check of FRAME_BEGIN and
of DECODE_FRAME is the one reported, and nothing else changes. -/
def Obligations.FirstFailingArgumentCheckIsReported : Prop :=
  ∀ (i : Instr) (s : State), i = .frameBegin ∨ i = .decodeFrame → s.phase.getLsbD 0 = false →
    let bw := s.cfg.toNat % 4
    let reports := fun c : BitVec 4 => exec i s = .next { s with err := true, errCode := c }
    (s.durationNs.toNat ≠ 20000000 → reports 1) ∧
    (s.durationNs.toNat = 20000000 →
      (s.cfg.getLsbD 4 = true → reports 2) ∧
      (s.cfg.getLsbD 4 = false →
        (bw = 3 → reports 4) ∧
        (bw ≠ 3 →
          (s.outCap.toNat < samplesFor bw → reports 3) ∧
          (samplesFor bw ≤ s.outCap.toNat →
            s.frameInfo.toNat % 4 = 3 ∨ (∃ k, k < 4 ∧ rdI s.gainIn k ≤ 0) → reports 7))))

/-! ### Frame control -/

/-- 45_frame_control.md R240, R241: FRAME_BEGIN latches its arguments, reinitialises the persistent state on a
bandwidth change and only then, clears the working state, and leaves PHASE with F alone. -/
def Obligations.FrameBeginOpensTheFrame : Prop :=
  ∀ s : State, ArgumentsOk s → ∃ t : State, exec .frameBegin s = .next t ∧
    bwCode t.frame.bw = s.cfg.toNat % 4 ∧ sigCode t.frame.sigType = s.frameInfo.toNat % 4 ∧
    (t.frame.qoff = .high ↔ s.frameInfo.getLsbD 4 = true) ∧ t.frame.gainQ16 = s.gainIn ∧
    t.frame.first = !t.dec.haveDecoded ∧ WorkCleared t.work ∧
    (s.dec.haveDecoded = true ∧ t.frame.bw ≠ s.dec.prevBw →
      DecoderCleared t.dec ∧ t.dec.prevBw = s.dec.prevBw) ∧
    (¬(s.dec.haveDecoded = true ∧ t.frame.bw ≠ s.dec.prevBw) → t.dec = s.dec) ∧
    t = { s with dec := t.dec, frame := t.frame, work := t.work, phase := 1, done := true }

/-- 45_frame_control.md R244: FRAME_END moves the last 306 outputs, the last D filter outputs and the stabilised
vector into the persistent state, sets HAVE_DECODED and PREV_BW, and clears PHASE. -/
def Obligations.FrameEndCommitsTheFrame : Prop :=
  ∀ s : State, s.phase.getLsbD 25 = true → ∃ t : State, exec .frameEnd s = .next t ∧
    let n := nFrame s.frame.bw
    (∀ k, k < 306 → rd t.dec.outHist k 0 =
      if k < n then rd s.work.out (n - 1 - k) 0 else rd s.dec.outHist (k - n) 0) ∧
    (∀ k, k < 16 → rd t.dec.lpcHist k 0 =
      if k < dLpc s.frame.bw then rd s.work.lpcBuf (n - 1 - k) 0 else 0) ∧
    (∀ k, k < 16 → rd t.dec.prevNlsf k 0 = if k < dLpc s.frame.bw then rd s.work.nlsf2 k 0 else 0) ∧
    t.dec.haveDecoded = true ∧ t.dec.prevBw = s.frame.bw ∧
    t = { s with dec := t.dec, phase := 0, done := true }

/-- 45_frame_control.md R245: RESET_STATE, legal at any time, gives the decoder's state and PHASE their reset
values and spares the host registers and STATUS but for DONE. -/
def Obligations.ResetStateSparesHostRegisters : Prop :=
  ∀ s : State, ∃ t : State, exec .resetState s = .next t ∧
    DecoderCleared t.dec ∧ t.dec.prevBw = .nb ∧ LatchedCleared t.frame ∧ WorkCleared t.work ∧
    t = { s with dec := t.dec, frame := t.frame, work := t.work, phase := 0, done := true }

/-- 45_frame_control.md R246: DECODE_FRAME does what its commands do one after the other, set 0 only where
S.INTERP = 1 and the pitch and LTP commands only on voiced frames, and completes the frame. -/
def Obligations.DecodeFrameIsItsCommandSequence : Prop :=
  ∀ s : State, ArgumentsOk s → ∃ u t : State,
    runCommands [.frameBegin, .lsfS1, .lsfS2, .lsfRecon, .lsfStab, .lsfInterp] s = .next u ∧
    runCommands
      ((if u.work.interp then [.lpcConvert 0, .lpcRange 0, .lpcGainlim 0] else []) ++
       [.lpcConvert 1, .lpcRange 1, .lpcGainlim 1] ++
       (if u.frame.sigType = .voiced then [.pitchLags, .ltpCoefs, .ltpScale] else []) ++
       [.excSeed, .excRate, .excCounts, .excShell, .excLsb, .excSigns, .excRecon,
        .synth 0, .synth 1, .synth 2, .synth 3, .frameEnd]) u = .next t ∧
    exec .decodeFrame s = .next t ∧ t.phase = 0 ∧ t.dec.haveDecoded = true ∧
    bwCode t.dec.prevBw = s.cfg.toNat % 4 ∧ t.done = true ∧ t.err = s.err ∧ t.errCode = s.errCode

/-- 45_frame_control.md R247: DECODE_FRAME makes at most 4088 symbol requests. -/
def Obligations.DecodeFrameMakesAtMost4088Requests : Prop :=
  ∀ s : State, ∃ t : State, exec .decodeFrame s = .next t ∧
    s.cursor.served ≤ t.cursor.served ∧ t.cursor.served ≤ s.cursor.served + 4088

/-! ### LSF decoder and interpolator -/

/-- 40_lsf.md R102, R103: LSF_S1 stores one answer of the stage-1 table of the bandwidth group and the voicing,
an index of a stage-1 vector, and changes nothing else. -/
def Obligations.LsfS1StoresOneAnswer : Prop :=
  ∀ s : State, s.phase.getLsbD 0 = true → s.phase.getLsbD 1 = false →
    ∃ (v : Nat) (t : State), exec .lsfS1 s = .next t ∧
      IsAnswer (forVoicing (forClass s.tables.val.lsf (bwClass s.frame.bw)).cb1Icdf s.frame.sigType) v ∧
      v < s.tables.val.nCb1 ∧ t.work.i1.toNat = v ∧ t.cursor.served = s.cursor.served + 1 ∧
      t = { s with
        work := { s.work with i1 := t.work.i1 }, cursor := t.cursor
        phase := s.phase ||| 0x2, done := true, fresh := t.fresh }

/-- 40_lsf.md R104 to R106: LSF_S2 reads for each position the answer of its table and, exactly at the extremes
0 and 8, an extension that moves the value away from zero; it uses the answers in order and no other, and
changes nothing else. The premise of the first part fixes the cursor's answers. Whatever the cursor answers,
the indices lie in -10..10 after D to 2·D requests. -/
def Obligations.LsfS2FollowsTheAnswers : Prop :=
  (∀ (s : State) (ans : List (Nat × Nat)) (rest : List Nat),
    s.phase.getLsbD 1 = true → s.phase.getLsbD 2 = false → ans.length = dLpc s.frame.bw →
    (∀ k, k < dLpc s.frame.bw →
      let b := forClass s.tables.val.lsf (bwClass s.frame.bw)
      IsAnswer (b.cb2Icdf.getD ((b.cb2Sel.getD s.work.i1.toNat []).getD k 0) []) (ans.getD k (0, 0)).1 ∧
      IsAnswer s.tables.val.extIcdf (ans.getD k (0, 0)).2) →
    s.cursor.script = (ans.flatMap fun p => if p.1 = 0 ∨ p.1 = 8 then [p.1, p.2] else [p.1]) ++ rest →
    ∃ t : State, exec .lsfS2 s = .next t ∧
      (∀ k, k < dLpc s.frame.bw → rdI t.work.i2 k =
        let p := ans.getD k (0, 0)
        if p.1 = 0 then -4 - (p.2 : Int) else if p.1 = 8 then 4 + p.2 else (p.1 : Int) - 4) ∧
      (∀ k, dLpc s.frame.bw ≤ k → rd t.work.i2 k 0 = rd s.work.i2 k 0) ∧ t.cursor.script = rest ∧
      t = { s with
        work := { s.work with i2 := t.work.i2 }, cursor := t.cursor
        phase := s.phase ||| 0x4, done := true, fresh := t.fresh }) ∧
  (∀ s : State, s.phase.getLsbD 1 = true → s.phase.getLsbD 2 = false →
    ∃ t : State, exec .lsfS2 s = .next t ∧
      (∀ k, k < dLpc s.frame.bw → -10 ≤ rdI t.work.i2 k ∧ rdI t.work.i2 k ≤ 10) ∧
      s.cursor.served + dLpc s.frame.bw ≤ t.cursor.served ∧
      t.cursor.served ≤ s.cursor.served + 2 * dLpc s.frame.bw)

/-- 40_lsf.md R107: the residuals with backward prediction and the clamped reconstruction of LSF_RECON, which
changes nothing else. The premise on QSTEP (the defaults are 11796 and 9830) keeps the residuals in the range
of their elements. -/
def Obligations.LsfReconFollowsTheFormula : Prop :=
  ∀ s : State, s.phase.getLsbD 2 = true → s.phase.getLsbD 3 = false →
    let b := forClass s.tables.val.lsf (bwClass s.frame.bw)
    let d := dLpc s.frame.bw
    let cb := b.cb1Q8.getD s.work.i1.toNat []
    0 ≤ b.qstepQ16 → b.qstepQ16 ≤ 65535 →
    ∃ t : State, exec .lsfRecon s = .next t ∧
      (∀ k, k < d →
        let p : Int := ((b.predQ8.getD ((b.predSel.getD s.work.i1.toNat []).getD k 0) []).getD k 0 : Nat)
        let i2 := rdI s.work.i2 k
        rdI t.work.resQ10 k =
          (if k + 1 < d then rdI t.work.resQ10 (k + 1) * p / 256 else 0) +
          (i2 * 1024 - signI i2 * 102) * b.qstepQ16 / 65536 ∧
        rdI t.work.nlsf2 k =
          clampI 0 ((cb.getD k 0 : Nat) * 128 + Int.tdiv (rdI t.work.resQ10 k * 16384) (weightQ9 cb k)) 32767) ∧
      (∀ k, d ≤ k → rd t.work.resQ10 k 0 = rd s.work.resQ10 k 0 ∧
        rd t.work.nlsf2 k 0 = rd s.work.nlsf2 k 0) ∧
      t = { s with
        work := { s.work with resQ10 := t.work.resQ10, nlsf2 := t.work.nlsf2 }
        phase := s.phase ||| 0x8, done := true, fresh := t.fresh }

/-- 40_lsf.md R108: for a stage-1 vector of the record, the reconstruction weight is at least 1 and its
logarithm lies in 20..28. -/
def Obligations.ReconstructionWeightsArePositive : Prop :=
  ∀ (tables : Tables) (c : BwClass) (i k : Nat), i < tables.val.nCb1 → k < dOfClass c →
    let cb := (forClass tables.val.lsf c).cb1Q8.getD i []
    let w2 := (1024 / (cbBound cb (k + 1) - cbBound cb k) +
      1024 / (cbBound cb (k + 2) - cbBound cb (k + 1))) * 65536
    20 ≤ ilog w2 ∧ ilog w2 ≤ 28 ∧ 1 ≤ weightQ9 cb k

/-- 40_lsf.md R114, R110: after LSF_STAB the vector keeps every minimum spacing and so strictly increases, for
every input; the command changes nothing else; an input that is already stable is returned unchanged. -/
def Obligations.LsfStabKeepsMinimumSpacings : Prop :=
  (∀ s : State, s.phase.getLsbD 3 = true → s.phase.getLsbD 4 = false →
    let delta := (forClass s.tables.val.lsf (bwClass s.frame.bw)).ndeltaMinQ15
    let d := dLpc s.frame.bw
    ∃ t : State, exec .lsfStab s = .next t ∧
      delta.getD 0 0 ≤ rdI t.work.nlsf2 0 ∧
      (∀ k, 1 ≤ k → k < d → delta.getD k 0 ≤ rdI t.work.nlsf2 k - rdI t.work.nlsf2 (k - 1) ∧
        rdI t.work.nlsf2 (k - 1) < rdI t.work.nlsf2 k) ∧
      rdI t.work.nlsf2 (d - 1) ≤ 32768 - delta.getD d 0 ∧
      (∀ k, d ≤ k → rd t.work.nlsf2 k 0 = rd s.work.nlsf2 k 0) ∧
      t = { s with
        work := { s.work with nlsf2 := t.work.nlsf2 }
        phase := s.phase ||| 0x10, done := true, fresh := t.fresh }) ∧
  (∀ s : State, s.phase.getLsbD 3 = true → s.phase.getLsbD 4 = false →
    let delta := (forClass s.tables.val.lsf (bwClass s.frame.bw)).ndeltaMinQ15
    let d := dLpc s.frame.bw
    delta.getD 0 0 ≤ rdI s.work.nlsf2 0 →
    (∀ k, 1 ≤ k → k < d → delta.getD k 0 ≤ rdI s.work.nlsf2 k - rdI s.work.nlsf2 (k - 1)) →
    rdI s.work.nlsf2 (d - 1) ≤ 32768 - delta.getD d 0 →
    ∃ t : State, exec .lsfStab s = .next t ∧ t.work.nlsf2 = s.work.nlsf2)

/-- 40_lsf.md R112: on a first frame, with P_INTERP_READ_FIRST = FALSE, LSF_INTERP reads nothing, stores W_MAX,
and n1 is n2. -/
def Obligations.FirstFramesDoNotInterpolate : Prop :=
  ∀ s : State, s.phase.getLsbD 4 = true → s.phase.getLsbD 5 = false → s.frame.first = true →
    s.tables.val.interpReadFirst = false →
    ∃ t : State, exec .lsfInterp s = .next t ∧ t.work.wQ2.toNat = s.tables.val.wMax ∧
      t.work.interp = false ∧
      (∀ k, rd t.work.nlsf1 k 0 =
        if k < dLpc s.frame.bw then rd s.work.nlsf2 k 0 else rd s.work.nlsf1 k 0) ∧
      t = { s with
        work := { s.work with wQ2 := t.work.wQ2, interp := t.work.interp, nlsf1 := t.work.nlsf1 }
        phase := s.phase ||| 0x20, done := true, fresh := t.fresh }

/-- 40_lsf.md R112: where the factor is read, S.INTERP says whether it blends, and n1 is the blend of n0 and n2
or n2 itself. That a first frame with P_INTERP_READ_FIRST = TRUE stores W_MAX over the factor it reads is the model's
reading (log 10). The premises on W_MAX (3 and 4 are the values the spec names) and on n0 and n2 keep the blend in
the range of its elements. -/
def Obligations.LsfInterpBlendsByTheFactor : Prop :=
  ∀ s : State, s.phase.getLsbD 4 = true → s.phase.getLsbD 5 = false →
    s.frame.first = false ∨ s.tables.val.interpReadFirst = true →
    s.tables.val.wMax ≤ 4 → (∀ k, 0 ≤ rdI s.dec.prevNlsf k ∧ 0 ≤ rdI s.work.nlsf2 k) →
    ∃ (v : Nat) (t : State), exec .lsfInterp s = .next t ∧ IsAnswer s.tables.val.interpIcdf v ∧
      t.cursor.served = s.cursor.served + 1 ∧
      t.work.wQ2.toNat = (if s.frame.first then s.tables.val.wMax else v) ∧
      t.work.interp = (!s.frame.first && decide (v < s.tables.val.wMax)) ∧
      (∀ k, k < dLpc s.frame.bw → rdI t.work.nlsf1 k =
        if t.work.interp then
          rdI s.dec.prevNlsf k + (v : Int) * (rdI s.work.nlsf2 k - rdI s.dec.prevNlsf k) / 4
        else rdI s.work.nlsf2 k) ∧
      (∀ k, dLpc s.frame.bw ≤ k → rd t.work.nlsf1 k 0 = rd s.work.nlsf1 k 0) ∧
      t = { s with
        work := { s.work with wQ2 := t.work.wQ2, interp := t.work.interp, nlsf1 := t.work.nlsf1 }
        cursor := t.cursor, phase := s.phase ||| 0x20, done := true, fresh := t.fresh }

/-- 40_lsf.md R115: n1 is strictly increasing whenever n0 and n2 are. -/
def Obligations.InterpolationKeepsOrder : Prop :=
  ∀ s : State, s.phase.getLsbD 4 = true → s.phase.getLsbD 5 = false → s.tables.val.wMax ≤ 4 →
    (∀ k, 0 ≤ rdI s.dec.prevNlsf k ∧ 0 ≤ rdI s.work.nlsf2 k) →
    (∀ k, k + 1 < dLpc s.frame.bw → rdI s.dec.prevNlsf k < rdI s.dec.prevNlsf (k + 1)) →
    (∀ k, k + 1 < dLpc s.frame.bw → rdI s.work.nlsf2 k < rdI s.work.nlsf2 (k + 1)) →
    ∃ t : State, exec .lsfInterp s = .next t ∧
      ∀ k, k + 1 < dLpc s.frame.bw → rdI t.work.nlsf1 k < rdI t.work.nlsf1 (k + 1)

/-! ### LPC converter -/

/-- 41_lpc.md R141: LPC_CONVERT writes the coefficients of the polynomials P and Q of the chosen vector to its
set, where they fit the elements, and changes nothing else. A negative value of the vector reads a free cosine, at the
state's counter (log 25). -/
def Obligations.LpcConvertWritesTheCoefficients : Prop :=
  ∀ (s : State) (arg : BitVec 4) (set : Fin 2), arg.toNat = set.val →
    s.phase.getLsbD 5 = true → s.phase.getLsbD (6 + 3 * set.val) = false →
    (set = 0 → s.work.interp = true) →
    let d := dLpc s.frame.bw
    let c := placedCosines s.fresh s.tables.val.cosQ12 (forClass s.tables.val.lsf (bwClass s.frame.bw)).order
      ((List.range d).map (rdI (if set = 0 then s.work.nlsf1 else s.work.nlsf2)))
    let p := fun k => (poly c 0 (d / 2)).getD k 0
    let q := fun k => (poly c 1 (d / 2)).getD k 0
    let fits := fun v : Int => -2147483648 ≤ v ∧ v ≤ 2147483647
    ∃ t : State, exec (.lpcConvert arg) s = .next t ∧
      (∀ k, k < d / 2 →
        let lo := -(q (k + 1) - q k) - (p (k + 1) + p k)
        let hi := (q (k + 1) - q k) - (p (k + 1) + p k)
        (fits lo → rdI t.work.a32[set] k = lo) ∧ (fits hi → rdI t.work.a32[set] (d - k - 1) = hi)) ∧
      (∀ k, d ≤ k → rd t.work.a32[set] k 0 = rd s.work.a32[set] k 0) ∧
      (∀ other : Fin 2, other ≠ set → t.work.a32[other] = s.work.a32[other]) ∧
      t = { s with
        work := { s.work with a32 := t.work.a32 }
        phase := s.phase ||| 0x1 <<< (6 + 3 * set.val), done := true, fresh := t.fresh }

/-- 41_lpc.md R142: the cosine of an NLSF value in 0..32767 lies in -131072..131072. -/
def Obligations.CosinesFitSeventeenBits : Prop :=
  ∀ (u : Nat) (cos : List Int) (n : Int), cos.length = 129 → (∀ x ∈ cos, -4096 ≤ x ∧ x ≤ 4096) → 0 ≤ n →
    n ≤ 32767 → -131072 ≤ cosineQ17 u cos n ∧ cosineQ17 u cos n ≤ 131072

/-- 41_lpc.md R144, R145: LPC_RANGE expands the vector, each round by the factor of its largest magnitude and that
magnitude's first index, until every coefficient fits Q12 or ten rounds are done; after ten it saturates. Every Q12
coefficient is then the rounded Q17 coefficient of its set, for every input; where every magnitude is at most 1048559
no expansion happens; the command changes nothing else. -/
def Obligations.LpcRangeRoundsEveryCoefficient : Prop :=
  ∀ (s : State) (arg : BitVec 4) (set : Fin 2), arg.toNat = set.val →
    s.phase.getLsbD (6 + 3 * set.val) = true → s.phase.getLsbD (7 + 3 * set.val) = false →
    let d := dLpc s.frame.bw
    ∃ (t : State) (n : Nat) (v : Nat → Nat → Int), exec (.lpcRange arg) s = .next t ∧ n ≤ 10 ∧
      (∀ k, k < d → v 0 k = rdI s.work.a32[set] k) ∧
      (∀ r, r < n → RangeRound d (v r) (v (r + 1))) ∧
      (n < 10 → ∀ k, k < d → -1048559 ≤ v n k ∧ v n k ≤ 1048559 ∧ rdI t.work.a32[set] k = v n k) ∧
      (n = 10 → ∀ k, k < d → rdI t.work.aQ12[set] k = clampI (-32768) ((v 10 k + 16) / 32) 32767 ∧
        rdI t.work.a32[set] k = rdI t.work.aQ12[set] k * 32) ∧
      (∀ k, k < d → rdI t.work.aQ12[set] k = (rdI t.work.a32[set] k + 16) / 32) ∧
      (∀ k, d ≤ k → rd t.work.a32[set] k 0 = rd s.work.a32[set] k 0 ∧
        rd t.work.aQ12[set] k 0 = rd s.work.aQ12[set] k 0) ∧
      (∀ other : Fin 2, other ≠ set → t.work.a32[other] = s.work.a32[other] ∧
        t.work.aQ12[other] = s.work.aQ12[other]) ∧
      ((∀ k, k < d → -1048559 ≤ rdI s.work.a32[set] k ∧ rdI s.work.a32[set] k ≤ 1048559) →
        t.work.a32 = s.work.a32) ∧
      t = { s with
        work := { s.work with a32 := t.work.a32, aQ12 := t.work.aQ12 }
        phase := s.phase ||| 0x1 <<< (7 + 3 * set.val), done := true, fresh := t.fresh }

/-- 41_lpc.md R144: the expansion factor lies in 13041..65470. -/
def Obligations.ExpansionFactorsAreBounded : Prop :=
  ∀ (m : Int) (idx : Nat), 32767 < m → idx < 16 → 13041 ≤ rangeFactor m idx ∧ rangeFactor m idx ≤ 65470

/-- 41_lpc.md R145, R147, R148: LPC_GAINLIM expands the vector, round `r` by 65536 - 2·2^r, and rounds it to Q12, as
long as P_STABLE judges the Q12 vector unstable and for at most sixteen rounds. It leaves a vector that P_STABLE judges
stable as it is, leaves a STABLE one in any case under the default procedure, and changes nothing else. The premise is
what LPC_RANGE can leave. -/
def Obligations.LpcGainlimLeavesAStableFilter : Prop :=
  ∀ (s : State) (arg : BitVec 4) (set : Fin 2), arg.toNat = set.val →
    s.phase.getLsbD (7 + 3 * set.val) = true → s.phase.getLsbD (8 + 3 * set.val) = false →
    (∀ k, k < dLpc s.frame.bw → -1048592 ≤ rdI s.work.a32[set] k ∧ rdI s.work.a32[set] k ≤ 1048559) →
    let d := dLpc s.frame.bw
    let judge := fun q : Nat → Int => stableBy s.tables.val.pStable ((List.range d).map q)
    ∃ (t : State) (n : Nat) (v q : Nat → Nat → Int), exec (.lpcGainlim arg) s = .next t ∧ n ≤ 16 ∧
      (∀ k, k < d → v 0 k = rdI s.work.a32[set] k ∧ q 0 k = rdI s.work.aQ12[set] k) ∧
      (∀ r, r < n → judge (q r) = false ∧ Expands d (65536 - 2 * 2 ^ r) (v r) (v (r + 1)) ∧
        ∀ k, k < d → q (r + 1) k = (v (r + 1) k + 16) / 32) ∧
      (n < 16 → judge (q n) = true) ∧
      (∀ k, k < d → rdI t.work.a32[set] k = v n k ∧ rdI t.work.aQ12[set] k = q n k) ∧
      (s.tables.val.pStable = .default → stable ((List.range d).map (rdI t.work.aQ12[set])) = true) ∧
      (judge (rdI s.work.aQ12[set]) = true → t.work.a32 = s.work.a32 ∧ t.work.aQ12 = s.work.aQ12) ∧
      (∀ k, d ≤ k → rd t.work.a32[set] k 0 = rd s.work.a32[set] k 0 ∧
        rd t.work.aQ12[set] k 0 = rd s.work.aQ12[set] k 0) ∧
      (∀ other : Fin 2, other ≠ set → t.work.a32[other] = s.work.a32[other] ∧
        t.work.aQ12[other] = s.work.aQ12[other]) ∧
      t = { s with
        work := { s.work with a32 := t.work.a32, aQ12 := t.work.aQ12 }
        phase := s.phase ||| 0x1 <<< (8 + 3 * set.val), done := true, fresh := t.fresh }

/-- 41_lpc.md R148: the zero vector is STABLE, and with any procedure that judges the zero vector stable the result of
gain limiting is judged stable and gain limiting applied to it returns it unchanged. -/
def Obligations.GainLimitingIsIdempotent : Prop :=
  (∀ n : Nat, stable (List.replicate n 0) = true) ∧
  ∀ (judge : List Int → Bool) (a32 aq : List Int), (∀ n : Nat, judge (List.replicate n 0) = true) →
    judge (gainLimit judge a32 aq).2 = true ∧
    gainLimit judge (gainLimit judge a32 aq).1 (gainLimit judge a32 aq).2 = gainLimit judge a32 aq

/-! ### Pitch and LTP decoder -/

/-- 42_ltp.md R171 to R173: PITCH_LAGS forms the primary lag from its one or two answers, below LAG_MAX where it is
split, and from S.LAG the class of the bandwidth's selector and the lags, clamped to the range of the bandwidth, with
one contour index for each subframe or one for the frame; it changes nothing else. What S.LAG holds where the lag does
not fit its int16 element is free (log 5); that the selector is a list of classes with one class beyond it is the
model's form of P_CONTOUR_SEL (log 4). -/
def Obligations.PitchLagsFollowTheAnswers : Prop :=
  ∀ s : State, s.phase.getLsbD 5 = true → s.phase.getLsbD 12 = false → s.frame.sigType = .voiced →
    let p := s.tables.val
    let bw := s.frame.bw
    ∃ (t : State) (lag : Nat) (j : Nat → Nat), exec .pitchLags s = .next t ∧
      (forBw p.pitchSplit bw = true → lag < lagMax bw ∧ ∃ hi lo, IsAnswer p.pitchHighIcdf hi ∧
        IsAnswer (forBw p.pitchLowIcdf bw) lo ∧ lag = hi * lagScale bw + lo + lagMin bw) ∧
      (forBw p.pitchSplit bw = false →
        ∃ v, IsAnswer (forBw p.pitchAbsIcdf bw) v ∧ lag = v + lagMin bw) ∧
      (lag < 32768 → t.work.lag.toInt = lag) ∧
      (let held := t.work.lag.toInt
       let sel := forBw p.contourSel bw
       let c := if held < lagMin bw then sel.beyond
         else sel.classes.getD (held - lagMin bw).toNat sel.beyond
       (∀ sub, sub < 4 → IsAnswer (p.contourIcdf.getD c []) (j sub)) ∧
       (p.contourMode = .perFrame → ∀ sub, sub < 4 → j sub = j 0) ∧
       (∀ sub, sub < 4 → rdI t.work.pitchLag sub =
         clampI (lagMin bw) (held + (((p.contourCb.getD c []).getD (j sub) []).getD sub 0)) (lagMax bw))) ∧
      t.cursor.served = s.cursor.served + (if forBw p.pitchSplit bw then 2 else 1) +
        (if p.contourMode = .perFrame then 1 else 4) ∧
      t = { s with
        work := { s.work with lag := t.work.lag, pitchLag := t.work.pitchLag }, cursor := t.cursor
        phase := s.phase ||| 0x1000, done := true, fresh := t.fresh }

/-- 42_ltp.md R174: LTP_COEFS reads one level and one filter index for each subframe and stores the selected
taps; it changes nothing else. -/
def Obligations.LtpCoefsStoreTheSelectedTaps : Prop :=
  ∀ s : State, s.phase.getLsbD 12 = true → s.phase.getLsbD 13 = false →
    let p := s.tables.val
    ∃ t : State, exec .ltpCoefs s = .next t ∧ IsAnswer p.ltpPerIcdf t.work.ltpPer ∧
      (∀ sub, sub < 4 →
        let idx := (rd t.work.ltpIdx sub 0).toNat
        IsAnswer (p.ltpFiltIcdf.getD t.work.ltpPer []) idx ∧
        ∀ tap, tap < 5 → rdI (rd t.work.bQ7 sub (Vector.replicate 5 0)) tap =
          ((p.ltpCbQ7.getD t.work.ltpPer []).getD idx []).getD tap 0) ∧
      t.cursor.served = s.cursor.served + 5 ∧
      t = { s with
        work := { s.work with ltpPer := t.work.ltpPer, ltpIdx := t.work.ltpIdx, bQ7 := t.work.bQ7 }
        cursor := t.cursor, phase := s.phase ||| 0x2000, done := true, fresh := t.fresh }

/-- 42_ltp.md R176: LTP_SCALE stores the scaling value that one answer selects and changes nothing else. -/
def Obligations.LtpScaleStoresTheSelectedScale : Prop :=
  ∀ s : State, s.phase.getLsbD 13 = true → s.phase.getLsbD 14 = false →
    ∃ (i : Nat) (t : State), exec .ltpScale s = .next t ∧ IsAnswer s.tables.val.ltpScaleIcdf i ∧ i < 3 ∧
      t.work.ltpScaleQ14.toInt = s.tables.val.ltpScaleQ14.getD i 0 ∧
      t.cursor.served = s.cursor.served + 1 ∧
      t = { s with
        work := { s.work with ltpScaleQ14 := t.work.ltpScaleQ14 }, cursor := t.cursor
        phase := s.phase ||| 0x4000, done := true, fresh := t.fresh }

/-! ### Excitation -/

/-- 43_excitation.md R190, R191: EXC_SEED and EXC_RATE each store one answer of their table, 0..3 and 0..8, and
change nothing else; on a voiced frame EXC_SEED also needs LTP_SCALE. -/
def Obligations.SeedAndRateStoreOneAnswer : Prop :=
  ∀ s : State,
    (s.phase.getLsbD 5 = true → s.phase.getLsbD 15 = false →
      (s.frame.sigType = .voiced → s.phase.getLsbD 14 = true) →
      ∃ t : State, exec .excSeed s = .next t ∧ IsAnswer s.tables.val.seedIcdf t.work.seed ∧
        t.work.seed < 4 ∧ t.cursor.served = s.cursor.served + 1 ∧
        t = { s with
          work := { s.work with seed := t.work.seed }, cursor := t.cursor
          phase := s.phase ||| 0x8000, done := true, fresh := t.fresh }) ∧
    (s.phase.getLsbD 15 = true → s.phase.getLsbD 16 = false →
      ∃ t : State, exec .excRate s = .next t ∧
        IsAnswer (if s.frame.sigType = .voiced then s.tables.val.rateIcdf.voiced
          else s.tables.val.rateIcdf.unvoiced) t.work.rateLevel ∧
        t.work.rateLevel < 9 ∧ t.cursor.served = s.cursor.served + 1 ∧
        t = { s with
          work := { s.work with rateLevel := t.work.rateLevel }, cursor := t.cursor
          phase := s.phase ||| 0x10000, done := true, fresh := t.fresh })

/-- 43_excitation.md R192, R193: EXC_COUNTS leaves in every block of the frame a pulse count of at most 16 and an
LSB count of at most 10 after at most 11 requests a block, and changes nothing else. -/
def Obligations.ExcCountsStayInRange : Prop :=
  ∀ s : State, s.phase.getLsbD 16 = true → s.phase.getLsbD 17 = false → s.work.rateLevel < 9 →
    ∃ t : State, exec .excCounts s = .next t ∧
      (∀ b, b < nShell s.frame.bw → rd t.work.pulseCount b 0 ≤ 16 ∧ rd t.work.lsbCount b 0 ≤ 10) ∧
      (∀ b, nShell s.frame.bw ≤ b → rd t.work.pulseCount b 0 = rd s.work.pulseCount b 0 ∧
        rd t.work.lsbCount b 0 = rd s.work.lsbCount b 0) ∧
      s.cursor.served + nShell s.frame.bw ≤ t.cursor.served ∧
      t.cursor.served ≤ s.cursor.served + 11 * nShell s.frame.bw ∧
      t = { s with
        work := { s.work with pulseCount := t.work.pulseCount, lsbCount := t.work.lsbCount }
        cursor := t.cursor, phase := s.phase ||| 0x20000, done := true, fresh := t.fresh }

/-- 43_excitation.md R193: `n` escapes and then the count `pc` give the counts of the block; the tenth escape
makes the next request use row 10. -/
def Obligations.EscapesCountTheLsbLevels : Prop :=
  ∀ (tables : Tables) (rate n pc k : Nat) (rest : List Nat), rate < 9 → n ≤ 10 → pc ≤ 16 →
    (∀ m, m < n → IsAnswer (tables.val.pulseIcdf.getD (if m = 0 then rate else 9) []) 17) →
    IsAnswer (tables.val.pulseIcdf.getD (if n = 0 then rate else if n = 10 then 10 else 9) []) pc →
    blockCount tables.val.pulseIcdf rate ⟨List.replicate n 17 ++ pc :: rest, k⟩ =
      ((pc, n), ⟨rest, k + n + 1⟩)

/-- 43_excitation.md R195: EXC_SHELL gives every block magnitudes that are not negative and sum to its pulse
count, after at most 15 requests a block, and changes nothing else. The second part fixes the cursor's answers to the
splits of given magnitudes, block by block, each partition before its halves and the left half first: then it stores
those magnitudes and makes those requests. -/
def Obligations.ShellMagnitudesSumToThePulseCount : Prop :=
  (∀ s : State, s.phase.getLsbD 17 = true → s.phase.getLsbD 18 = false →
    (∀ b, b < nShell s.frame.bw → rd s.work.pulseCount b 0 ≤ 16) →
    ∃ t : State, exec .excShell s = .next t ∧
      (∀ b, b < nShell s.frame.bw →
        sumI ((List.range 16).map fun i => rdI t.work.eRaw (16 * b + i)) = rd s.work.pulseCount b 0) ∧
      (∀ i, i < 16 * nShell s.frame.bw → 0 ≤ rdI t.work.eRaw i) ∧
      (∀ i, 16 * nShell s.frame.bw ≤ i → rd t.work.eRaw i 0 = rd s.work.eRaw i 0) ∧
      t.cursor.served ≤ s.cursor.served + 15 * nShell s.frame.bw ∧
      t = { s with
        work := { s.work with eRaw := t.work.eRaw }, cursor := t.cursor
        phase := s.phase ||| 0x40000, done := true, fresh := t.fresh }) ∧
  (∀ (s : State) (mags : Nat → List Nat) (rest : List Nat),
    s.phase.getLsbD 17 = true → s.phase.getLsbD 18 = false →
    (∀ b, b < nShell s.frame.bw → (mags b).length = 16 ∧ (mags b).sum = rd s.work.pulseCount b 0 ∧
      rd s.work.pulseCount b 0 ≤ 16) →
    let requests := (List.range (nShell s.frame.bw)).flatMap fun b =>
      shellRequests s.tables.val.shellIcdf 4 (mags b)
    Answers s requests rest →
    ∃ t : State, exec .excShell s = .next t ∧
      t.cursor = ⟨rest, s.cursor.served + requests.length⟩ ∧
      ∀ b i, b < nShell s.frame.bw → i < 16 → rdI t.work.eRaw (16 * b + i) = (mags b).getD i 0)

/-- 43_excitation.md R196: EXC_LSB appends as many bits to every magnitude as its block has LSB levels, reads
exactly those, and changes nothing else. The second part fixes the cursor's answers to given bits, all of a sample and
then those of the next: the magnitude is doubled before each bit is added. -/
def Obligations.LsbRefinementAppendsTheBits : Prop :=
  (∀ s : State, s.phase.getLsbD 18 = true → s.phase.getLsbD 19 = false →
    (∀ b, b < nShell s.frame.bw → rd s.work.lsbCount b 0 ≤ 10) →
    (∀ i, i < 16 * nShell s.frame.bw → 0 ≤ rdI s.work.eRaw i ∧ rdI s.work.eRaw i ≤ 16) →
    ∃ t : State, exec .excLsb s = .next t ∧
      (∀ i, i < 16 * nShell s.frame.bw → ∃ bits : Nat,
        bits < 2 ^ rd s.work.lsbCount (i / 16) 0 ∧
        rdI t.work.eRaw i = rdI s.work.eRaw i * 2 ^ rd s.work.lsbCount (i / 16) 0 + bits) ∧
      (∀ i, 16 * nShell s.frame.bw ≤ i → rd t.work.eRaw i 0 = rd s.work.eRaw i 0) ∧
      t.cursor.served = s.cursor.served +
        ((List.range (nShell s.frame.bw)).map fun b => 16 * rd s.work.lsbCount b 0).sum ∧
      t = { s with
        work := { s.work with eRaw := t.work.eRaw }, cursor := t.cursor
        phase := s.phase ||| 0x80000, done := true, fresh := t.fresh }) ∧
  (∀ (s : State) (bits : Nat → List Nat) (rest : List Nat),
    s.phase.getLsbD 18 = true → s.phase.getLsbD 19 = false →
    (∀ i, i < 16 * nShell s.frame.bw → (bits i).length = rd s.work.lsbCount (i / 16) 0 ∧
      rd s.work.lsbCount (i / 16) 0 ≤ 10 ∧ 0 ≤ rdI s.work.eRaw i ∧ rdI s.work.eRaw i ≤ 16) →
    let requests := (List.range (16 * nShell s.frame.bw)).flatMap fun i =>
      (bits i).map fun b => (s.tables.val.lsbIcdf, b)
    Answers s requests rest →
    ∃ t : State, exec .excLsb s = .next t ∧
      t.cursor = ⟨rest, s.cursor.served + requests.length⟩ ∧
      ∀ i, i < 16 * nShell s.frame.bw →
        rdI t.work.eRaw i = (bits i).foldl (fun (m : Int) b => 2 * m + b) (rdI s.work.eRaw i))

/-- 43_excitation.md R197: EXC_SIGNS turns the sign of some magnitudes above 0 in blocks that hold pulses or LSB
levels, after one request for each of these magnitudes, and touches no other sample; it changes nothing else. The
second part fixes the cursor's answers, in sample order: the answer 0 makes the sample negative and any other leaves
it. -/
def Obligations.SignsKeepMagnitudes : Prop :=
  (∀ s : State, s.phase.getLsbD 19 = true → s.phase.getLsbD 20 = false →
    ∃ t : State, exec .excSigns s = .next t ∧
      (∀ i, i < 16 * nShell s.frame.bw →
        rdI t.work.eRaw i = rdI s.work.eRaw i ∨
        (rdI t.work.eRaw i = -rdI s.work.eRaw i ∧ 0 < rdI s.work.eRaw i ∧
          (0 < rd s.work.pulseCount (i / 16) 0 ∨ 0 < rd s.work.lsbCount (i / 16) 0))) ∧
      (∀ i, 16 * nShell s.frame.bw ≤ i → rd t.work.eRaw i 0 = rd s.work.eRaw i 0) ∧
      t.cursor.served = s.cursor.served +
        ((List.range (16 * nShell s.frame.bw)).filter fun i => ReadsSign s i).length ∧
      t = { s with
        work := { s.work with eRaw := t.work.eRaw }, cursor := t.cursor
        phase := s.phase ||| 0x100000, done := true, fresh := t.fresh }) ∧
  (∀ (s : State) (ans : Nat → Nat) (rest : List Nat),
    s.phase.getLsbD 19 = true → s.phase.getLsbD 20 = false →
    let tab := fun i => (forQOff (forSigType s.tables.val.signIcdf s.frame.sigType) s.frame.qoff).getD
      (min (rd s.work.pulseCount (i / 16) 0) 6) []
    Answers s (((List.range (16 * nShell s.frame.bw)).filter fun i => ReadsSign s i).map
      fun i => (tab i, ans i)) rest →
    ∃ t : State, exec .excSigns s = .next t ∧ t.cursor.script = rest ∧
      ∀ i, i < 16 * nShell s.frame.bw →
        rdI t.work.eRaw i = if ReadsSign s i ∧ ans i = 0 then -rdI s.work.eRaw i else rdI s.work.eRaw i)

/-- 43_excitation.md R199: EXC_RECON runs the generator from the seed, advanced by every signed pulse, and its
sign bit turns the dequantised value with the offset; the command changes nothing else. The premises keep the
values in the range of their elements; with the magnitudes of 43_excitation.md R196 and an offset of at most
60 they stay below 2^23. -/
def Obligations.ExcReconFollowsTheGenerator : Prop :=
  ∀ s : State, s.phase.getLsbD 20 = true → s.phase.getLsbD 21 = false →
    let p := s.tables.val
    let v := if s.frame.sigType = .voiced then p.qoffsetQ23.voiced else p.qoffsetQ23.unvoiced
    let off := if s.frame.qoff = .low then v.low else v.high
    (∀ i, i < nFrame s.frame.bw → -17407 ≤ rdI s.work.eRaw i ∧ rdI s.work.eRaw i ≤ 17407) →
    -1073741824 ≤ off → off ≤ 1073741824 →
    ∃ (t : State) (lcg : Nat → Word), exec .excRecon s = .next t ∧
      lcg 0 = p.lcgA * BitVec.ofNat 32 s.work.seed + p.lcgC ∧
      (∀ i, i + 1 < nFrame s.frame.bw →
        lcg (i + 1) = p.lcgA * (lcg i + rd s.work.eRaw i 0) + p.lcgC) ∧
      (∀ i, i < nFrame s.frame.bw →
        let e := rdI s.work.eRaw i * 256 - signI (rdI s.work.eRaw i) * 20 + off
        rdI t.work.eQ23 i = (if (lcg i).getLsbD 31 then -e else e) ∧
        (-60 ≤ off → off ≤ 60 → -8388608 < rdI t.work.eQ23 i ∧ rdI t.work.eQ23 i < 8388608)) ∧
      (∀ i, nFrame s.frame.bw ≤ i → rd t.work.eQ23 i 0 = rd s.work.eQ23 i 0) ∧
      t = { s with
        work := { s.work with eQ23 := t.work.eQ23 }
        phase := s.phase ||| 0x200000, done := true, fresh := t.fresh }

/-! ### Synthesis -/

/-- 44_synthesis.md R221, R225, R226: SYNTH runs the filter recursion on the unclamped values of the subframe, with
the coefficients of set 0 in the first two subframes of a frame with interpolation and of set 1 otherwise, clamps only
the output, and changes nothing outside the subframe's samples but S.RESBUF. -/
def Obligations.SynthFiltersTheSubframe : Prop :=
  ∀ (s : State) (arg : BitVec 4) (sub : Fin 4), arg.toNat = sub.val →
    Precondition s (.synth arg) = true →
    let n := nSf s.frame.bw
    let j := sub.val * n
    let set : Fin 2 := if s.work.interp = true ∧ sub.val < 2 then 0 else 1
    ∃ (t : State) (u : Nat), exec (.synth arg) s = .next t ∧
      (let a := (List.range (dLpc s.frame.bw)).map fun k =>
         fpDiv u (fpOfInt (rdI s.work.aQ12[set] k)) (fpOfInt 4096)
       ∀ i, j ≤ i → i < j + n →
        rd t.work.lpcBuf i 0 =
          fpAdd u (fpMul u (fpDiv u (fpOfInt (rdI s.frame.gainQ16 sub.val)) (fpOfInt 65536))
              (resView s t.work.resBuf i))
            (dot u (fun k => lpcView s t.work.lpcBuf ((i : Int) - k - 1)) a) ∧
        rd t.work.out i 0 = fpClamp1 (rd t.work.lpcBuf i 0)) ∧
      (∀ i, i < j ∨ j + n ≤ i → rd t.work.lpcBuf i 0 = rd s.work.lpcBuf i 0 ∧
        rd t.work.out i 0 = rd s.work.out i 0) ∧
      t = { s with
        work := { s.work with resBuf := t.work.resBuf, lpcBuf := t.work.lpcBuf, out := t.work.out }
        phase := s.phase ||| 0x1 <<< (22 + sub.val), done := true, fresh := t.fresh }

/-- 44_synthesis.md R221, R222, R224: on a frame that is not voiced the residual is the excitation over 2^23 and no
other element of S.RESBUF changes. On a voiced frame with a valid lag the residual of the samples the LTP filter
reads is rewhitened, with the coefficients of the subframe's set, from the output history and the filter's own output,
and the residual of a sample of the subframe is the excitation and the five taps on the residual one lag before. That
a tap is divided by 128 before the product is the model's reading (log 9). -/
def Obligations.ResidualAddsTheLtpFilter : Prop :=
  (∀ (s : State) (arg : BitVec 4) (sub : Fin 4), arg.toNat = sub.val →
    Precondition s (.synth arg) = true → s.frame.sigType ≠ .voiced →
    let n := nSf s.frame.bw
    let j := sub.val * n
    ∃ (t : State) (u : Nat), exec (.synth arg) s = .next t ∧
      ∀ k, k < 626 → rd t.work.resBuf k 0 =
        if 306 + j ≤ k ∧ k < 306 + j + n then
          fpDiv u (fpOfInt (rdI s.work.eQ23 (k - 306))) (fpOfInt 8388608)
        else rd s.work.resBuf k 0) ∧
  (∀ (s : State) (arg : BitVec 4) (sub : Fin 4), arg.toNat = sub.val →
    Precondition s (.synth arg) = true → s.frame.sigType = .voiced →
    let bw := s.frame.bw
    let n := nSf bw
    let j : Int := sub.val * n
    let lag := rdI s.work.pitchLag sub.val
    let rw := s.work.interp = true ∧ 2 ≤ sub.val
    let outEnd : Int := if rw then j - (sub.val - 2) * n else 0
    let scale : Int := if rw then 16384 else s.work.ltpScaleQ14.toInt
    let g := fpOfInt (rdI s.frame.gainQ16 sub.val)
    let set : Fin 2 := if s.work.interp = true ∧ sub.val < 2 then 0 else 1
    let a := fun u => (List.range (dLpc bw)).map fun k =>
      fpDiv u (fpOfInt (rdI s.work.aQ12[set] k)) (fpOfInt 4096)
    let taps := fun u => (List.range 5).map fun k =>
      fpDiv u (fpOfInt (rdI s.work.bQ7[sub] k)) (fpOfInt 128)
    lagMin bw ≤ lag → lag ≤ lagMax bw →
    ∃ (t : State) (u : Nat), exec (.synth arg) s = .next t ∧
      (∀ i : Int, j - lag - 2 ≤ i → i < outEnd →
        resView s t.work.resBuf i =
          fpMul u (fpDiv u (fpOfInt (4 * scale)) g)
            (fpClamp1 (fpSub u (outView s s.work.out i)
              (dot u (fun k => outView s s.work.out (i - k - 1)) (a u))))) ∧
      (∀ i : Int, outEnd ≤ i → i < j →
        resView s t.work.resBuf i =
          fpMul u (fpDiv u (fpOfInt 65536) g)
            (fpSub u (lpcView s s.work.lpcBuf i)
              (dot u (fun k => lpcView s s.work.lpcBuf (i - k - 1)) (a u)))) ∧
      (∀ i : Int, j ≤ i → i < j + n →
        resView s t.work.resBuf i =
          fpAdd u (fpDiv u (fpOfInt (rdI s.work.eQ23 i.toNat)) (fpOfInt 8388608))
            (dot u (fun k => resView s t.work.resBuf (i - lag + 2 - k)) (taps u))))

/-- 44_synthesis.md R223: with a valid lag no read of the output history, of the filter output or of the
residual lies outside what exists. -/
def Obligations.SynthReadsOnlyWhatExists : Prop :=
  ∀ (s : State) (sub : Fin 4) (i : Int) (k : Nat),
    (lagMin s.frame.bw : Int) ≤ lagOf s sub → lagOf s sub ≤ lagMax s.frame.bw → k < dLpc s.frame.bw →
    let j : Int := firstSample s sub
    (i ∈ indices (j - lagOf s sub - 2) (outEnd s sub) → -306 ≤ i - k - 1 ∧ i < nFrame s.frame.bw) ∧
    (i ∈ indices (outEnd s sub) j → -(dLpc s.frame.bw : Int) ≤ i - k - 1 ∧ i < nFrame s.frame.bw) ∧
    (i ∈ samplesOf s sub → -(dLpc s.frame.bw : Int) ≤ i - k - 1 ∧ i < nFrame s.frame.bw ∧
      (k < 5 → j - lagOf s sub - 2 ≤ i - lagOf s sub + 2 - k ∧ i - lagOf s sub + 2 - k < i))

/-- 44_synthesis.md R220, R226: an output sample that SYNTH writes lies in -1..1 or is a NaN. -/
def Obligations.OutputSamplesStayWithinOne : Prop :=
  ∀ (s : State) (arg : BitVec 4) (sub : Fin 4), arg.toNat = sub.val →
    Precondition s (.synth arg) = true →
    ∃ t : State, exec (.synth arg) s = .next t ∧
      ∀ i, sub.val * nSf s.frame.bw ≤ i → i < (sub.val + 1) * nSf s.frame.bw →
        fpIsNan (rd t.work.out i 0) = true ∨
        ∃ q : ℚ, rationalOf (rd t.work.out i 0) = some q ∧ -1 ≤ q ∧ q ≤ 1

/-- 44_synthesis.md R220: every operation on finite values and every conversion gives the exact result rounded once:
to the nearest binary32 value and, between two equally near, to the one whose last bit is 0, with subnormals kept and
with an infinity exactly where the result is at least half a place above the largest finite value. -/
def Obligations.FloatRoundingIsNearestEven : Prop :=
  (∀ (neg : Bool) (m : Nat) (e : Int),
    Rounds ((if neg then -1 else 1) * (m : ℚ) * (2 : ℚ) ^ e) (fpRound neg m e)) ∧
  (∀ v : Int, Rounds v (fpOfInt v)) ∧
  ∀ (u : Nat) (a b : F32) (p q : ℚ), rationalOf a = some p → rationalOf b = some q →
    Rounds (p + q) (fpAdd u a b) ∧ Rounds (p - q) (fpSub u a b) ∧ Rounds (p * q) (fpMul u a b) ∧
    (q ≠ 0 → Rounds (p / q) (fpDiv u a b))

/-- 44_synthesis.md R221: the conversion of a Q12 coefficient is exact in binary32. -/
def Obligations.CoefficientConversionIsExact : Prop :=
  ∀ (u : Nat) (a : BitVec 16),
    rationalOf (fpDiv u (fpOfInt a.toInt) (fpOfInt 4096)) = some ((a.toInt : ℚ) / 4096)

/-! ### Whole-machine rules -/

/-- 45_frame_control.md R245, 10_state.md sections 2 to 4: no command writes a host register, the parameter record
or the host port, and only FRAME_BEGIN, FRAME_END, RESET_STATE and DECODE_FRAME write the persistent state or the
latched parameters. -/
def Obligations.CommandsWriteOnlyTheirStateClass : Prop :=
  ∀ (i : Instr) (s : State), ∃ t : State, exec i s = .next t ∧
    t.irqEn = s.irqEn ∧ t.cfg = s.cfg ∧ t.durationNs = s.durationNs ∧ t.outCap = s.outCap ∧
    t.frameInfo = s.frameInfo ∧ t.gainIn = s.gainIn ∧ t.bus = s.bus ∧ t.rdata = s.rdata ∧
    t.tables = s.tables ∧
    (i ∉ [.frameBegin, .frameEnd, .resetState, .decodeFrame] → t.dec = s.dec ∧ t.frame = s.frame)

/-- 10_state.md R35: what the host writes to the argument registers while a frame is open does not change what
its commands do. -/
def Obligations.OpenFramesIgnoreArgumentWrites : Prop :=
  ∀ (i : Instr) (s : State) (cfg dur cap info : Word) (gains : Vector Word 4),
    i ≠ .frameBegin → i ≠ .decodeFrame →
    ∃ t : State, exec i s = .next t ∧
      exec i (withArguments cfg dur cap info gains s) = .next (withArguments cfg dur cap info gains t)

/-- 43_excitation.md R200: S.E_Q23 of the frame depends on the seed, the classes and the pulses alone, in a
block with one parameter record: two decodes that agree in them agree in it, whatever else differs. The premises on
the pulses and on the offset keep the values in the range of their elements. -/
def Obligations.ExcitationDependsOnSeedClassesAndPulses : Prop :=
  ∀ s s' : State, s.phase.getLsbD 20 = true → s.phase.getLsbD 21 = false → s'.phase.getLsbD 20 = true →
    s'.phase.getLsbD 21 = false → s.tables = s'.tables → s.frame.bw = s'.frame.bw →
    s.frame.sigType = s'.frame.sigType → s.frame.qoff = s'.frame.qoff → s.work.seed = s'.work.seed →
    s.work.eRaw = s'.work.eRaw →
    let v := if s.frame.sigType = .voiced then s.tables.val.qoffsetQ23.voiced
      else s.tables.val.qoffsetQ23.unvoiced
    let off := if s.frame.qoff = .low then v.low else v.high
    (∀ i, i < nFrame s.frame.bw → -17407 ≤ rdI s.work.eRaw i ∧ rdI s.work.eRaw i ≤ 17407) →
    -1073741824 ≤ off → off ≤ 1073741824 →
    ∃ t t' : State, exec .excRecon s = .next t ∧ exec .excRecon s' = .next t' ∧
      ∀ i, i < nFrame s.frame.bw → rd t.work.eQ23 i 0 = rd t'.work.eQ23 i 0

/-! ### Invariants -/

/-- At reset the reserved bits of CFG, FRAMEINFO and PHASE are 0 and ERRCODE agrees with ERR. -/
def Obligations.ReservedBitsAreZeroAtReset : Prop := ReservedZero State.reset

/-- 10_state.md R22, R25, R27, R29: every step keeps the reserved bits 0 and ERRCODE the code of the error ERR
stands for. -/
def Obligations.StepsKeepReservedBitsZero : Prop :=
  ∀ s t : State, ReservedZero s → step s = .next t → ReservedZero t

/-- At reset PHASE is in an order the preconditions allow, the elements are in their ranges, and S.FIRST is what
HAVE_DECODED makes it where a frame is open. -/
def Obligations.FrameInvariantHoldsAtReset : Prop := FrameInv State.reset

/-- 70_reset_and_hazards.md R340: every step keeps PHASE in an order the preconditions allow. -/
def Obligations.StepsKeepPhaseOrdered : Prop :=
  ∀ s t : State, PhaseOrdered s → step s = .next t → PhaseOrdered t

/-- 10_state.md R37, R39, R40, 43_excitation.md R196: every step keeps PHASE ordered and the elements in their ranges
(`InRange`; the vector n1 of R37 with W_MAX at most 4). -/
def Obligations.StepsKeepElementsInRange : Prop :=
  ∀ s t : State, FrameInv s → step s = .next t → FrameInv t
end

