-- ==== Sys2Proof/Laws/Arrays.lean ====
section
/-! SUPPORT. The laws of the arrays of State and of the integer operators: a read after a write gives what was
written and every other element is as before. -/

namespace Sys2Proof.Machine

/-! ### Reading one element -/

theorem rd_eq_getElem {α : Type} {n : Nat} (v : Vector α n) (i : Nat) (d : α) (h : i < n) :
    rd v i d = v[i] := by
  simp [rd, h]

theorem rd_of_le {α : Type} {n : Nat} (v : Vector α n) (i : Nat) (d : α) (h : n ≤ i) : rd v i d = d := by
  simp [rd, h]

/-- Two arrays that read the same everywhere are one array. -/
theorem eq_of_rd {α : Type} {n : Nat} {v w : Vector α n} (d : α) (h : ∀ i, i < n → rd v i d = rd w i d) :
    v = w := by
  apply Vector.ext
  intro i hi
  have := h i hi
  rwa [rd_eq_getElem v i d hi, rd_eq_getElem w i d hi] at this

@[simp] theorem rd_replicate {α : Type} (n i : Nat) (d : α) : rd (Vector.replicate n d) i d = d := by
  by_cases h : i < n
  · simp [rd_eq_getElem _ _ _ h]
  · exact rd_of_le _ _ _ (Nat.le_of_not_lt h)

/-! ### Writing -/

theorem rd_build {α : Type} (n : Nat) (f : Nat → α) (i : Nat) (d : α) :
    rd (build n f) i d = if i < n then f i else d := by
  simp only [rd, build, Vector.toList, List.getD_eq_getElem?_getD, List.getElem?_map]
  by_cases h : i < n <;> simp [h]

theorem rd_put {α : Type} {n : Nat} (v : Vector α n) (i j : Nat) (x d : α) :
    rd (put v i x) j d = if j = i ∧ j < n then x else rd v j d := by
  simp only [rd, put, Vector.toList, List.getD_eq_getElem?_getD, List.getElem?_set]
  by_cases hj : j < n
  · by_cases h : i = j <;> simp [h, hj, eq_comm]
  · by_cases h : i = j <;> simp [h, hj]

theorem rd_putFirst {α : Type} {n : Nat} (v : Vector α n) (xs : List α) (i : Nat) (d : α) (h : xs.length ≤ n) :
    rd (putFirst v xs) i d = if i < xs.length then xs.getD i d else rd v i d := by
  simp only [rd, putFirst, Vector.toList, List.getD_eq_getElem?_getD, List.getElem?_take,
    List.getElem?_append, List.getElem?_drop]
  by_cases hx : i < xs.length
  · simp [hx, show i < n by omega]
  · by_cases hi : i < n
    · simp [hx, hi, show xs.length + (i - xs.length) = i by omega]
    · simp [hx, hi]

/-- An array whose first elements are replaced by what they are is the array. -/
theorem putFirst_self {α : Type} {n : Nat} (v : Vector α n) (xs : List α) (d : α) (hl : xs.length ≤ n)
    (h : ∀ i, i < xs.length → xs.getD i d = rd v i d) : putFirst v xs = v := by
  apply eq_of_rd d
  intro i _
  rw [rd_putFirst v xs i d hl]
  split
  · next hi => exact h i hi
  · rfl

/-! ### Lists read from an array -/

@[simp] theorem firstI_length {w n : Nat} (v : Vector (BitVec w) n) (k : Nat) : (firstI v k).length = k := by
  simp [firstI]

theorem firstI_getD {w n : Nat} (v : Vector (BitVec w) n) (k i : Nat) (h : i < k) :
    (firstI v k).getD i 0 = rdI v i := by
  simp [firstI, h]

/-! ### Indices -/

theorem mem_indices (a b i : Int) : i ∈ indices a b ↔ a ≤ i ∧ i < b := by
  simp only [indices, List.mem_map, List.mem_range]
  constructor
  · rintro ⟨k, hk, rfl⟩
    omega
  · intro h
    exact ⟨(i - a).toNat, by omega, by omega⟩

@[simp] theorem indices_length (a b : Int) : (indices a b).length = (b - a).toNat := by
  simp [indices]

/-! ### Integer operators -/

theorem clampI_bounds {lo hi : Int} (v : Int) (h : lo ≤ hi) : lo ≤ clampI lo v hi ∧ clampI lo v hi ≤ hi := by
  simp only [clampI]
  omega

theorem clampI_of_mem {lo v hi : Int} (h : lo ≤ v) (h' : v ≤ hi) : clampI lo v hi = v := by
  simp only [clampI]
  omega

theorem absI_eq_natAbs (v : Int) : absI v = (v.natAbs : Int) := by
  simp only [absI]
  split <;> omega

/-- `v >> n` is the integer that `v / 2^n` lies at or above by less than 1 (00_scope.md R9). -/
theorem asr_spec (v : Int) (n : Nat) :
    asr v n * ((2 ^ n : Nat) : Int) ≤ v ∧ v < (asr v n + 1) * ((2 ^ n : Nat) : Int) := by
  have hp : (0 : Int) < ((2 ^ n : Nat) : Int) := by exact_mod_cast Nat.two_pow_pos n
  have h1 := Int.mul_ediv_add_emod v ((2 ^ n : Nat) : Int)
  have h2 := Int.emod_nonneg v (ne_of_gt hp)
  have h3 := Int.emod_lt_of_pos v hp
  simp only [asr]
  constructor <;> nlinarith

theorem asr_mono {a b : Int} (n : Nat) (h : a ≤ b) : asr a n ≤ asr b n :=
  Int.ediv_le_ediv (by exact_mod_cast Nat.two_pow_pos n) h

theorem shl_zero (n : Nat) : shl 0 n = 0 := by simp [shl]

end Sys2Proof.Machine
end

