-- ==== Sys2Proof/Laws/Ops.lean ====
section
/-! SUPPORT. One law for each shared operation, saying all it can do: symbol requests, stores, error entry,
completion and the forms of a command. -/

namespace Sys2Proof.Machine

/-! ### Answers of the cursor -/

theorem admissible_iff_isAnswer (tab : Icdf) (v : Nat) : admissible tab v = true ↔ IsAnswer tab v := by
  simp [admissible, IsAnswer, icdfAbove]

/-- A table that starts below 256 or falls somewhere has an admissible answer: a well-formed one does. -/
theorem answersOf_ne_nil {m : Nat} {tab : Icdf} (h : icdfWf m tab = true) : answersOf tab ≠ [] := by
  simp only [icdfWf, Bool.and_eq_true, decide_eq_true_eq, List.all_eq_true] at h
  obtain ⟨⟨⟨⟨hl, -⟩, -⟩, hm⟩, h0⟩ := h
  intro hnil
  have hno : ∀ v, v < m → 256 ≤ tab.getD v 0 := by
    intro v
    induction v with
    | zero =>
      intro hv
      have : ¬admissible tab 0 = true := fun ha => by
        have : 0 ∈ answersOf tab := by simp [answersOf, ha, hl, hm]
        simp [hnil] at this
      simpa [admissible, icdfAbove, hl, hm] using this
    | succ v ih =>
      intro hv
      have : ¬admissible tab (v + 1) = true := fun ha => by
        have : v + 1 ∈ answersOf tab := by simp [answersOf, ha, hl, hv]
        simp [hnil] at this
      have h1 : tab.getD v 0 ≤ tab.getD (v + 1) 0 := by
        simpa [admissible, icdfAbove, hl, hv] using this
      exact le_trans (ih (by omega)) h1
  have h256 := hno (m - 1) (by omega)
  have : tab.getD (m - 1) 0 = tab.getD (m - 1) 1 := by
    simp [List.getD_eq_getElem?_getD, show m - 1 < tab.length by omega]
  omega

theorem answerOf_admissible {tab : Icdf} (h : answersOf tab ≠ []) (draw : Nat) :
    admissible tab (answerOf tab draw) = true := by
  simp only [answerOf]
  split
  · assumption
  · have hpos : 0 < (answersOf tab).length := List.length_pos_iff.mpr h
    have hlt : draw % (answersOf tab).length < (answersOf tab).length := Nat.mod_lt _ hpos
    have hmem : (answersOf tab).getD (draw % (answersOf tab).length) 0 ∈ answersOf tab := by
      rw [List.getD_eq_getElem _ _ hlt]
      exact List.getElem_mem hlt
    exact (List.mem_filter.mp hmem).2

/-- What a symbol request with a well-formed table can do: it answers an admissible index of the table and
uses up one request and at most one fixed answer. -/
theorem sym_spec {m : Nat} {tab : Icdf} (h : icdfWf m tab = true) (c : Cursor) :
    IsAnswer tab (sym tab c).1 ∧ (sym tab c).1 < m ∧ (sym tab c).2.served = c.served + 1 ∧
      (sym tab c).2.script = c.script.tail := by
  have hadm : admissible tab (sym tab c).1 = true := by
    simp only [sym]
    split
    · exact answerOf_admissible (answersOf_ne_nil h) _
    · dsimp only
      split
      · assumption
      · exact answerOf_admissible (answersOf_ne_nil h) _
  have hans := (admissible_iff_isAnswer _ _).mp hadm
  refine ⟨hans, ?_, ?_, ?_⟩
  · have hl : tab.length = m := by
      simp only [icdfWf, Bool.and_eq_true, decide_eq_true_eq] at h
      exact h.1.1.1.1
    exact hl ▸ hans.1
  · simp only [sym]
    split <;> rfl
  · simp only [sym]
    split <;> simp_all

/-- A fixed answer that is admissible is the answer. -/
theorem sym_of_script {tab : Icdf} {a n : Nat} {rest : List Nat} (h : IsAnswer tab a) :
    sym tab ⟨a :: rest, n⟩ = (a, ⟨rest, n + 1⟩) := by
  simp [sym, (admissible_iff_isAnswer tab a).mpr h]

/-! ### Working through a list -/

@[simp] theorem drawEach_length {α β : Type} (f : α → Cursor → β × Cursor) (as : List α) (c : Cursor) :
    (drawEach f as c).1.length = as.length := by
  induction as generalizing c with
  | nil => rfl
  | cons a as ih => simp [drawEach, ih]

/-- A property of every element's result, whatever the cursor it starts from, holds of all results. -/
theorem drawEach_forall {α β : Type} {f : α → Cursor → β × Cursor} {P : α → β → Prop} {as : List α}
    (h : ∀ a ∈ as, ∀ c, P a (f a c).1) (c : Cursor) :
    List.Forall₂ P as (drawEach f as c).1 := by
  induction as generalizing c with
  | nil => exact List.Forall₂.nil
  | cons a as ih =>
    exact List.Forall₂.cons (h a List.mem_cons_self c)
      (ih (fun b hb => h b (List.mem_cons_of_mem _ hb)) _)

/-- Bounds on the requests of one element bound the requests of all. -/
theorem drawEach_served {α β : Type} {f : α → Cursor → β × Cursor} {as : List α} (lo hi : Nat)
    (h : ∀ a ∈ as, ∀ c, c.served + lo ≤ (f a c).2.served ∧ (f a c).2.served ≤ c.served + hi) (c : Cursor) :
    c.served + lo * as.length ≤ (drawEach f as c).2.served ∧
      (drawEach f as c).2.served ≤ c.served + hi * as.length := by
  induction as generalizing c with
  | nil => simp [drawEach]
  | cons a as ih =>
    have h1 := h a List.mem_cons_self c
    have h2 := ih (fun b hb => h b (List.mem_cons_of_mem _ hb)) (f a c).2
    simp only [drawEach, List.length_cons, Nat.mul_add, Nat.mul_one]
    omega

/-! ### Stores -/

/-- A value in the range of its element is kept (00_scope.md R8). -/
theorem storeI_toInt {w : Nat} (n : Nat) {v : Int} (hw : 0 < w) (h : -(2 ^ (w - 1) : Nat) ≤ v)
    (h' : v < (2 ^ (w - 1) : Nat)) : (storeI n w v).toInt = v := by
  obtain ⟨w, rfl⟩ : ∃ k, w = k + 1 := ⟨w - 1, by omega⟩
  simp only [Nat.add_sub_cancel] at h h'
  have hb : storeI n (w + 1) v = BitVec.ofInt (w + 1) v := if_pos ⟨h, h'⟩
  rw [hb, BitVec.toInt_ofInt]
  have hp : ((2 ^ (w + 1) : Nat) : Int) = 2 * ((2 ^ w : Nat) : Int) := by push_cast; ring
  exact Int.bmod_eq_of_le_mul_two (by omega) (by omega)

/-- What an element holds is kept when it is stored again. -/
theorem storeI_self {w : Nat} (n : Nat) (x : BitVec w) (hw : 0 < w) : storeI n w x.toInt = x := by
  apply BitVec.eq_of_toInt_eq
  obtain ⟨w, rfl⟩ : ∃ k, w = k + 1 := ⟨w - 1, by omega⟩
  have h1 := BitVec.le_toInt x
  have h2 := BitVec.toInt_lt (x := x)
  apply storeI_toInt n (by omega) <;> simp only [Nat.add_sub_cancel] at * <;> push_cast <;> assumption

/-- What is read back after a store is the value stored, where it is in the range of the element. -/
theorem held_of_mem {w : Nat} (n : Nat) {v : Int} (hw : 0 < w) (h : -(2 ^ (w - 1) : Nat) ≤ v)
    (h' : v < (2 ^ (w - 1) : Nat)) : held n w v = v := storeI_toInt n hw h h'

/-- What is read back after a store lies in the range of the element, whatever was stored. -/
theorem held_bounds {w : Nat} (n : Nat) (v : Int) (hw : 0 < w) :
    -(2 ^ (w - 1) : Nat) ≤ held n w v ∧ held n w v < (2 ^ (w - 1) : Nat) := by
  obtain ⟨w, rfl⟩ : ∃ k, w = k + 1 := ⟨w - 1, by omega⟩
  have h1 := BitVec.le_toInt (storeI n (w + 1) v)
  have h2 := BitVec.toInt_lt (x := storeI n (w + 1) v)
  simp only [Nat.add_sub_cancel] at *
  push_cast
  exact ⟨h1, h2⟩

/-- Storing what was read back gives the element that was stored first. -/
@[simp] theorem storeI_held {w : Nat} (n m : Nat) (v : Int) (hw : 0 < w) :
    storeI m w (held n w v) = storeI n w v := storeI_self m _ hw

theorem storeU_toNat {w : Nat} (n : Nat) {v : Nat} (h : v < 2 ^ w) : (storeU n w v).toNat = v := by
  simp [storeU, h, Nat.mod_eq_of_lt h]

/-- Element `i` after the first elements were replaced by integers. -/
theorem rd_storeFirst {w m : Nat} (n : Nat) (v : Vector (BitVec w) m) (xs : List Int) (i : Nat)
    (h : xs.length ≤ m) :
    rd (storeFirst n v xs) i 0 = if i < xs.length then storeI n w (xs.getD i 0) else rd v i 0 := by
  rw [storeFirst, rd_putFirst _ _ _ _ (by simpa using h)]
  by_cases hi : i < xs.length <;> simp [hi]

/-- A replaced element holds what is read back of its integer. -/
theorem rdI_storeFirst_held {w m : Nat} (n : Nat) (v : Vector (BitVec w) m) (xs : List Int) (i : Nat)
    (hm : xs.length ≤ m) (hi : i < xs.length) : rdI (storeFirst n v xs) i = held n w (xs.getD i 0) := by
  rw [rdI, rd_storeFirst n v xs i hm, if_pos hi, held]

/-- An element that was replaced by an integer in its range holds that integer. -/
theorem rdI_storeFirst {w m : Nat} (n : Nat) (v : Vector (BitVec w) m) (xs : List Int) (i : Nat)
    (hm : xs.length ≤ m) (hi : i < xs.length) (hw : 0 < w) (h : -(2 ^ (w - 1) : Nat) ≤ xs.getD i 0)
    (h' : xs.getD i 0 < (2 ^ (w - 1) : Nat)) : rdI (storeFirst n v xs) i = xs.getD i 0 := by
  rw [rdI, rd_storeFirst n v xs i hm, if_pos hi]
  exact storeI_toInt n hw h h'

/-- The first elements stored again as they are leave the array as it is. -/
theorem storeFirst_firstI {w m : Nat} (n : Nat) (v : Vector (BitVec w) m) (k : Nat) (hk : k ≤ m) (hw : 0 < w) :
    storeFirst n v (firstI v k) = v := by
  apply eq_of_rd 0
  intro i _
  rw [rd_storeFirst n v _ i (by simpa using hk)]
  split
  · next hi =>
    rw [firstI_length] at hi
    rw [firstI_getD v k i hi]
    exact storeI_self n _ hw
  · rfl

/-! ### Commands -/

/-- All a command with a precondition can do (60_exceptions.md R307, R310, R311). -/
theorem command_cases (pre : State → Bool) (effect : State → State) (s : State) :
    (pre s = true ∧ command pre effect s = .next (complete (effect s))) ∨
    (pre s = false ∧ command pre effect s = .next { s with err := true, errCode := 6 }) := by
  cases h : pre s
  · exact .inr ⟨rfl, by simp [command, h, raiseError, errNumber]⟩
  · exact .inl ⟨rfl, by simp [command, h]⟩

theorem command_of_pre {pre : State → Bool} (effect : State → State) {s : State} (h : pre s = true) :
    command pre effect s = .next (complete (effect s)) := by
  simp [command, h]

theorem command_of_not_pre {pre : State → Bool} (effect : State → State) {s : State} (h : pre s = false) :
    command pre effect s = .next { s with err := true, errCode := 6 } := by
  simp [command, h, raiseError, errNumber]

theorem onSet_of_val {arg : BitVec 4} {set : Fin 2} (h : arg.toNat = set.val)
    (run : Fin 2 → State → Outcome) (s : State) : onSet arg run s = run set s := by
  have hl : arg.toNat < 2 := by omega
  simp only [onSet, lpcSetOf, dif_pos hl]
  exact congrArg (run · s) (Fin.ext h)

theorem onSet_of_ge {arg : BitVec 4} (h : 2 ≤ arg.toNat) (run : Fin 2 → State → Outcome) (s : State) :
    onSet arg run s = .next { s with err := true, errCode := 5 } := by
  simp [onSet, lpcSetOf, show ¬arg.toNat < 2 by omega, raiseError, errNumber]

theorem onSubframe_of_val {arg : BitVec 4} {sub : Fin 4} (h : arg.toNat = sub.val)
    (run : Fin 4 → State → Outcome) (s : State) : onSubframe arg run s = run sub s := by
  have hl : arg.toNat < 4 := by omega
  simp only [onSubframe, subframeOf, dif_pos hl]
  exact congrArg (run · s) (Fin.ext h)

theorem onSubframe_of_ge {arg : BitVec 4} (h : 4 ≤ arg.toNat) (run : Fin 4 → State → Outcome) (s : State) :
    onSubframe arg run s = .next { s with err := true, errCode := 5 } := by
  simp [onSubframe, subframeOf, show ¬arg.toNat < 4 by omega, raiseError, errNumber]

end Sys2Proof.Machine
end

