-- ==== Sys2Proof/Laws/PerInstr.lean ====
section
/-! SUPPORT. Laws stated for every command, one lemma a constructor. -/

namespace Sys2Proof.Laws

/-- The fields of the word of a command: the opcode in 7:0, the operand in 11:8, 0 above (30_encoding.md R80). -/
def EncodeShape.Statement (i : Instr) : Prop :=
  (encode i).extractLsb' 0 8 = opcodeOf i ∧ (encode i).extractLsb' 8 4 = argOf i ∧
    (encode i).extractLsb' 12 20 = 0

theorem EncodeShape.resetState : EncodeShape.Statement .resetState := by
  unfold EncodeShape.Statement
  decide
theorem EncodeShape.frameBegin : EncodeShape.Statement .frameBegin := by
  unfold EncodeShape.Statement
  decide
theorem EncodeShape.lsfS1 : EncodeShape.Statement .lsfS1 := by
  unfold EncodeShape.Statement
  decide
theorem EncodeShape.lsfS2 : EncodeShape.Statement .lsfS2 := by
  unfold EncodeShape.Statement
  decide
theorem EncodeShape.lsfRecon : EncodeShape.Statement .lsfRecon := by
  unfold EncodeShape.Statement
  decide
theorem EncodeShape.lsfStab : EncodeShape.Statement .lsfStab := by
  unfold EncodeShape.Statement
  decide
theorem EncodeShape.lsfInterp : EncodeShape.Statement .lsfInterp := by
  unfold EncodeShape.Statement
  decide
theorem EncodeShape.lpcConvert (set : BitVec 4) : EncodeShape.Statement (.lpcConvert set) := by
  revert set
  unfold EncodeShape.Statement
  decide
theorem EncodeShape.lpcRange (set : BitVec 4) : EncodeShape.Statement (.lpcRange set) := by
  revert set
  unfold EncodeShape.Statement
  decide
theorem EncodeShape.lpcGainlim (set : BitVec 4) : EncodeShape.Statement (.lpcGainlim set) := by
  revert set
  unfold EncodeShape.Statement
  decide
theorem EncodeShape.pitchLags : EncodeShape.Statement .pitchLags := by
  unfold EncodeShape.Statement
  decide
theorem EncodeShape.ltpCoefs : EncodeShape.Statement .ltpCoefs := by
  unfold EncodeShape.Statement
  decide
theorem EncodeShape.ltpScale : EncodeShape.Statement .ltpScale := by
  unfold EncodeShape.Statement
  decide
theorem EncodeShape.excSeed : EncodeShape.Statement .excSeed := by
  unfold EncodeShape.Statement
  decide
theorem EncodeShape.excRate : EncodeShape.Statement .excRate := by
  unfold EncodeShape.Statement
  decide
theorem EncodeShape.excCounts : EncodeShape.Statement .excCounts := by
  unfold EncodeShape.Statement
  decide
theorem EncodeShape.excShell : EncodeShape.Statement .excShell := by
  unfold EncodeShape.Statement
  decide
theorem EncodeShape.excLsb : EncodeShape.Statement .excLsb := by
  unfold EncodeShape.Statement
  decide
theorem EncodeShape.excSigns : EncodeShape.Statement .excSigns := by
  unfold EncodeShape.Statement
  decide
theorem EncodeShape.excRecon : EncodeShape.Statement .excRecon := by
  unfold EncodeShape.Statement
  decide
theorem EncodeShape.synth (sub : BitVec 4) : EncodeShape.Statement (.synth sub) := by
  revert sub
  unfold EncodeShape.Statement
  decide
theorem EncodeShape.frameEnd : EncodeShape.Statement .frameEnd := by
  unfold EncodeShape.Statement
  decide
theorem EncodeShape.decodeFrame : EncodeShape.Statement .decodeFrame := by
  unfold EncodeShape.Statement
  decide

end Sys2Proof.Laws
end

