-- ==== Sys2Proof/Laws/State.lean ====
section
/-! SUPPORT. What each named update of State leaves in each field: one lemma a field, so that no later proof
unfolds a record update. -/

namespace Sys2Proof.Machine

/-! ### Completion -/

@[simp] theorem complete_irqEn (s : State) : (complete s).irqEn = s.irqEn := rfl
@[simp] theorem complete_done (s : State) : (complete s).done = true := rfl
@[simp] theorem complete_err (s : State) : (complete s).err = s.err := rfl
@[simp] theorem complete_errCode (s : State) : (complete s).errCode = s.errCode := rfl
@[simp] theorem complete_cfg (s : State) : (complete s).cfg = s.cfg := rfl
@[simp] theorem complete_durationNs (s : State) : (complete s).durationNs = s.durationNs := rfl
@[simp] theorem complete_outCap (s : State) : (complete s).outCap = s.outCap := rfl
@[simp] theorem complete_frameInfo (s : State) : (complete s).frameInfo = s.frameInfo := rfl
@[simp] theorem complete_gainIn (s : State) : (complete s).gainIn = s.gainIn := rfl
@[simp] theorem complete_phase (s : State) : (complete s).phase = s.phase := rfl
@[simp] theorem complete_dec (s : State) : (complete s).dec = s.dec := rfl
@[simp] theorem complete_frame (s : State) : (complete s).frame = s.frame := rfl
@[simp] theorem complete_work (s : State) : (complete s).work = s.work := rfl
@[simp] theorem complete_bus (s : State) : (complete s).bus = s.bus := rfl
@[simp] theorem complete_rdata (s : State) : (complete s).rdata = s.rdata := rfl
@[simp] theorem complete_cursor (s : State) : (complete s).cursor = s.cursor := rfl
@[simp] theorem complete_tables (s : State) : (complete s).tables = s.tables := rfl
@[simp] theorem complete_fresh (s : State) : (complete s).fresh = s.fresh := rfl

/-! ### PHASE -/

@[simp] theorem markPhase_irqEn (b : PhaseBit) (s : State) : (markPhase b s).irqEn = s.irqEn := rfl
@[simp] theorem markPhase_done (b : PhaseBit) (s : State) : (markPhase b s).done = s.done := rfl
@[simp] theorem markPhase_err (b : PhaseBit) (s : State) : (markPhase b s).err = s.err := rfl
@[simp] theorem markPhase_errCode (b : PhaseBit) (s : State) : (markPhase b s).errCode = s.errCode := rfl
@[simp] theorem markPhase_cfg (b : PhaseBit) (s : State) : (markPhase b s).cfg = s.cfg := rfl
@[simp] theorem markPhase_durationNs (b : PhaseBit) (s : State) : (markPhase b s).durationNs = s.durationNs := rfl
@[simp] theorem markPhase_outCap (b : PhaseBit) (s : State) : (markPhase b s).outCap = s.outCap := rfl
@[simp] theorem markPhase_frameInfo (b : PhaseBit) (s : State) : (markPhase b s).frameInfo = s.frameInfo := rfl
@[simp] theorem markPhase_gainIn (b : PhaseBit) (s : State) : (markPhase b s).gainIn = s.gainIn := rfl
@[simp] theorem markPhase_phase (b : PhaseBit) (s : State) : (markPhase b s).phase = s.phase ||| 1#32 <<< phaseIndex b := rfl
@[simp] theorem markPhase_dec (b : PhaseBit) (s : State) : (markPhase b s).dec = s.dec := rfl
@[simp] theorem markPhase_frame (b : PhaseBit) (s : State) : (markPhase b s).frame = s.frame := rfl
@[simp] theorem markPhase_work (b : PhaseBit) (s : State) : (markPhase b s).work = s.work := rfl
@[simp] theorem markPhase_bus (b : PhaseBit) (s : State) : (markPhase b s).bus = s.bus := rfl
@[simp] theorem markPhase_rdata (b : PhaseBit) (s : State) : (markPhase b s).rdata = s.rdata := rfl
@[simp] theorem markPhase_cursor (b : PhaseBit) (s : State) : (markPhase b s).cursor = s.cursor := rfl
@[simp] theorem markPhase_tables (b : PhaseBit) (s : State) : (markPhase b s).tables = s.tables := rfl
@[simp] theorem markPhase_fresh (b : PhaseBit) (s : State) : (markPhase b s).fresh = s.fresh + 1 := rfl

/-! ### STATUS -/

@[simp] theorem clearStatus_irqEn (v : Word) (s : State) : (clearStatus v s).irqEn = s.irqEn := rfl
@[simp] theorem clearStatus_done (v : Word) (s : State) : (clearStatus v s).done = (s.done && !v.getLsbD 1) := rfl
@[simp] theorem clearStatus_err (v : Word) (s : State) : (clearStatus v s).err = (s.err && !v.getLsbD 2) := rfl
@[simp] theorem clearStatus_errCode (v : Word) (s : State) : (clearStatus v s).errCode = if v.getLsbD 2 then 0 else s.errCode := rfl
@[simp] theorem clearStatus_cfg (v : Word) (s : State) : (clearStatus v s).cfg = s.cfg := rfl
@[simp] theorem clearStatus_durationNs (v : Word) (s : State) : (clearStatus v s).durationNs = s.durationNs := rfl
@[simp] theorem clearStatus_outCap (v : Word) (s : State) : (clearStatus v s).outCap = s.outCap := rfl
@[simp] theorem clearStatus_frameInfo (v : Word) (s : State) : (clearStatus v s).frameInfo = s.frameInfo := rfl
@[simp] theorem clearStatus_gainIn (v : Word) (s : State) : (clearStatus v s).gainIn = s.gainIn := rfl
@[simp] theorem clearStatus_phase (v : Word) (s : State) : (clearStatus v s).phase = s.phase := rfl
@[simp] theorem clearStatus_dec (v : Word) (s : State) : (clearStatus v s).dec = s.dec := rfl
@[simp] theorem clearStatus_frame (v : Word) (s : State) : (clearStatus v s).frame = s.frame := rfl
@[simp] theorem clearStatus_work (v : Word) (s : State) : (clearStatus v s).work = s.work := rfl
@[simp] theorem clearStatus_bus (v : Word) (s : State) : (clearStatus v s).bus = s.bus := rfl
@[simp] theorem clearStatus_rdata (v : Word) (s : State) : (clearStatus v s).rdata = s.rdata := rfl
@[simp] theorem clearStatus_cursor (v : Word) (s : State) : (clearStatus v s).cursor = s.cursor := rfl
@[simp] theorem clearStatus_tables (v : Word) (s : State) : (clearStatus v s).tables = s.tables := rfl
@[simp] theorem clearStatus_fresh (v : Word) (s : State) : (clearStatus v s).fresh = s.fresh := rfl

/-! ### RESET_STATE -/

@[simp] theorem resetState_irqEn (s : State) : (resetState s).irqEn = s.irqEn := rfl
@[simp] theorem resetState_done (s : State) : (resetState s).done = s.done := rfl
@[simp] theorem resetState_err (s : State) : (resetState s).err = s.err := rfl
@[simp] theorem resetState_errCode (s : State) : (resetState s).errCode = s.errCode := rfl
@[simp] theorem resetState_cfg (s : State) : (resetState s).cfg = s.cfg := rfl
@[simp] theorem resetState_durationNs (s : State) : (resetState s).durationNs = s.durationNs := rfl
@[simp] theorem resetState_outCap (s : State) : (resetState s).outCap = s.outCap := rfl
@[simp] theorem resetState_frameInfo (s : State) : (resetState s).frameInfo = s.frameInfo := rfl
@[simp] theorem resetState_gainIn (s : State) : (resetState s).gainIn = s.gainIn := rfl
@[simp] theorem resetState_phase (s : State) : (resetState s).phase = 0 := rfl
@[simp] theorem resetState_dec (s : State) : (resetState s).dec = Decoder.reset := rfl
@[simp] theorem resetState_frame (s : State) : (resetState s).frame = Latched.reset := rfl
@[simp] theorem resetState_work (s : State) : (resetState s).work = Work.reset := rfl
@[simp] theorem resetState_bus (s : State) : (resetState s).bus = s.bus := rfl
@[simp] theorem resetState_rdata (s : State) : (resetState s).rdata = s.rdata := rfl
@[simp] theorem resetState_cursor (s : State) : (resetState s).cursor = s.cursor := rfl
@[simp] theorem resetState_tables (s : State) : (resetState s).tables = s.tables := rfl
@[simp] theorem resetState_fresh (s : State) : (resetState s).fresh = s.fresh := rfl

/-! ### FRAME_BEGIN -/

@[simp] theorem frameBegin_irqEn (bw : Bandwidth) (sig : SigType) (s : State) : (frameBegin bw sig s).irqEn = s.irqEn := rfl
@[simp] theorem frameBegin_done (bw : Bandwidth) (sig : SigType) (s : State) : (frameBegin bw sig s).done = s.done := rfl
@[simp] theorem frameBegin_err (bw : Bandwidth) (sig : SigType) (s : State) : (frameBegin bw sig s).err = s.err := rfl
@[simp] theorem frameBegin_errCode (bw : Bandwidth) (sig : SigType) (s : State) : (frameBegin bw sig s).errCode = s.errCode := rfl
@[simp] theorem frameBegin_cfg (bw : Bandwidth) (sig : SigType) (s : State) : (frameBegin bw sig s).cfg = s.cfg := rfl
@[simp] theorem frameBegin_durationNs (bw : Bandwidth) (sig : SigType) (s : State) : (frameBegin bw sig s).durationNs = s.durationNs := rfl
@[simp] theorem frameBegin_outCap (bw : Bandwidth) (sig : SigType) (s : State) : (frameBegin bw sig s).outCap = s.outCap := rfl
@[simp] theorem frameBegin_frameInfo (bw : Bandwidth) (sig : SigType) (s : State) : (frameBegin bw sig s).frameInfo = s.frameInfo := rfl
@[simp] theorem frameBegin_gainIn (bw : Bandwidth) (sig : SigType) (s : State) : (frameBegin bw sig s).gainIn = s.gainIn := rfl
@[simp] theorem frameBegin_phase (bw : Bandwidth) (sig : SigType) (s : State) : (frameBegin bw sig s).phase = 1 := rfl
@[simp] theorem frameBegin_dec (bw : Bandwidth) (sig : SigType) (s : State) : (frameBegin bw sig s).dec = reinit bw s.dec := rfl
@[simp] theorem frameBegin_frame (bw : Bandwidth) (sig : SigType) (s : State) : (frameBegin bw sig s).frame = 
      ⟨bw, sig, qoffIn s, s.gainIn, !(reinit bw s.dec).haveDecoded⟩ := rfl
@[simp] theorem frameBegin_work (bw : Bandwidth) (sig : SigType) (s : State) : (frameBegin bw sig s).work = Work.reset := rfl
@[simp] theorem frameBegin_bus (bw : Bandwidth) (sig : SigType) (s : State) : (frameBegin bw sig s).bus = s.bus := rfl
@[simp] theorem frameBegin_rdata (bw : Bandwidth) (sig : SigType) (s : State) : (frameBegin bw sig s).rdata = s.rdata := rfl
@[simp] theorem frameBegin_cursor (bw : Bandwidth) (sig : SigType) (s : State) : (frameBegin bw sig s).cursor = s.cursor := rfl
@[simp] theorem frameBegin_tables (bw : Bandwidth) (sig : SigType) (s : State) : (frameBegin bw sig s).tables = s.tables := rfl
@[simp] theorem frameBegin_fresh (bw : Bandwidth) (sig : SigType) (s : State) : (frameBegin bw sig s).fresh = s.fresh := rfl

/-! ### FRAME_END -/

@[simp] theorem frameEnd_irqEn (s : State) : (frameEnd s).irqEn = s.irqEn := rfl
@[simp] theorem frameEnd_done (s : State) : (frameEnd s).done = s.done := rfl
@[simp] theorem frameEnd_err (s : State) : (frameEnd s).err = s.err := rfl
@[simp] theorem frameEnd_errCode (s : State) : (frameEnd s).errCode = s.errCode := rfl
@[simp] theorem frameEnd_cfg (s : State) : (frameEnd s).cfg = s.cfg := rfl
@[simp] theorem frameEnd_durationNs (s : State) : (frameEnd s).durationNs = s.durationNs := rfl
@[simp] theorem frameEnd_outCap (s : State) : (frameEnd s).outCap = s.outCap := rfl
@[simp] theorem frameEnd_frameInfo (s : State) : (frameEnd s).frameInfo = s.frameInfo := rfl
@[simp] theorem frameEnd_gainIn (s : State) : (frameEnd s).gainIn = s.gainIn := rfl
@[simp] theorem frameEnd_phase (s : State) : (frameEnd s).phase = 0 := rfl
@[simp] theorem frameEnd_frame (s : State) : (frameEnd s).frame = s.frame := rfl
@[simp] theorem frameEnd_work (s : State) : (frameEnd s).work = s.work := rfl
@[simp] theorem frameEnd_bus (s : State) : (frameEnd s).bus = s.bus := rfl
@[simp] theorem frameEnd_rdata (s : State) : (frameEnd s).rdata = s.rdata := rfl
@[simp] theorem frameEnd_cursor (s : State) : (frameEnd s).cursor = s.cursor := rfl
@[simp] theorem frameEnd_tables (s : State) : (frameEnd s).tables = s.tables := rfl
@[simp] theorem frameEnd_fresh (s : State) : (frameEnd s).fresh = s.fresh := rfl

@[simp] theorem frameEnd_haveDecoded (s : State) : (frameEnd s).dec.haveDecoded = true := rfl
@[simp] theorem frameEnd_prevBw (s : State) : (frameEnd s).dec.prevBw = s.frame.bw := rfl

/-! ### The derived reads under the updates -/

@[simp] theorem params_complete (s : State) : params (complete s) = params s := rfl
@[simp] theorem params_markPhase (b : PhaseBit) (s : State) : params (markPhase b s) = params s := rfl
@[simp] theorem order_markPhase (b : PhaseBit) (s : State) : order (markPhase b s) = order s := rfl
@[simp] theorem book_markPhase (b : PhaseBit) (s : State) : book (markPhase b s) = book s := rfl
@[simp] theorem voiced_markPhase (b : PhaseBit) (s : State) : voiced (markPhase b s) = voiced s := rfl
@[simp] theorem phaseHas_complete (s : State) (b : PhaseBit) :
    phaseHas (complete s) b = phaseHas s b := rfl
@[simp] theorem irq_complete (s : State) : irq (complete s) = s.irqEn := by simp [irq]

/-! ### PHASE bits -/

/-- Two PHASE bits of one number are one bit. -/
theorem phaseIndex_injective {a b : PhaseBit} (h : phaseIndex a = phaseIndex b) : a = b := by
  cases a <;> cases b <;> simp_all [phaseIndex] <;> omega

/-- Every PHASE bit is one of 25:0 (10_state.md R29). -/
theorem phaseIndex_lt (b : PhaseBit) : phaseIndex b < 26 := by
  cases b <;> simp only [phaseIndex] <;> omega

/-- Marking a command sets its bit and no other. -/
@[simp] theorem phaseHas_markPhase (s : State) (b c : PhaseBit) :
    phaseHas (markPhase b s) c = (phaseHas s c || decide (c = b)) := by
  have hc := phaseIndex_lt c
  simp only [phaseHas, markPhase_phase, BitVec.getLsbD_or, BitVec.getLsbD_shiftLeft]
  by_cases h : c = b
  · subst h
    simp; omega
  · have hne : phaseIndex c ≠ phaseIndex b := fun e => h (phaseIndex_injective e)
    simp only [h, decide_false, Bool.or_false, Bool.or_eq_left_iff_imp]
    intro hx
    simp only [Bool.and_eq_true, decide_eq_true_eq, Bool.not_eq_true', decide_eq_false_iff_not, BitVec.getLsbD_one] at hx
    omega

end Sys2Proof.Machine
end

