-- ==== Sys2Proof/Laws/Step.lean ====
section
/-! SUPPORT. All a step can do, and what the host port does at the addresses that have a side effect. -/

namespace Sys2Proof.Machine

/-- All a step can do, by the next access of the host. -/
theorem step_cases (s : State) :
    (s.bus = [] ∧ step s = .next s) ∨
    (∃ rest, s.bus = .resetPin :: rest ∧ step s = .next (resetBlock { s with bus := rest })) ∨
    (∃ size a rest, s.bus = .read size a :: rest ∧
      step s = if wordAccess size a then .next { s with bus := rest, rdata := readWord s a.toNat }
        else .refused .notWordAccess) ∨
    (∃ size a v rest, s.bus = .write size a v :: rest ∧
      step s = if wordAccess size a then writeWord a.toNat v { s with bus := rest }
        else .refused .notWordAccess) := by
  match h : s.bus with
  | [] => exact .inl ⟨rfl, by simp [step, h]⟩
  | .resetPin :: rest => exact .inr (.inl ⟨rest, rfl, by simp [step, h, serve]⟩)
  | .read size a :: rest =>
    refine .inr (.inr (.inl ⟨size, a, rest, rfl, ?_⟩))
    simp only [step, h, serve]
    rfl
  | .write size a v :: rest => exact .inr (.inr (.inr ⟨size, a, v, rest, rfl, by simp [step, h, serve]⟩))

/-- A write of a word to an admitted address is the write's effect. -/
theorem step_of_write {s : State} {a : BitVec 14} {v : Word} {rest : List BusOp}
    (h : s.bus = .write 4 a v :: rest) (ha : a.toNat % 4 = 0) :
    step s = writeWord a.toNat v { s with bus := rest } := by
  simp [step, h, serve, wordAccess, ha]

/-- A read of a word at an admitted address returns the word. -/
theorem step_of_read {s : State} {a : BitVec 14} {rest : List BusOp} (h : s.bus = .read 4 a :: rest)
    (ha : a.toNat % 4 = 0) :
    step s = .next { s with bus := rest, rdata := readWord { s with bus := rest } a.toNat } := by
  simp [step, h, serve, wordAccess, ha]

/-! ### The map at the registers a write acts on -/

theorem locate_ctrl : locate 0x004 = some .ctrl := by decide
theorem locate_status : locate 0x008 = some .status := by decide
theorem locate_cmd : locate 0x00C = some .cmd := by decide
theorem locate_cfg : locate 0x010 = some .cfg := by decide
theorem locate_durationNs : locate 0x014 = some .durationNs := by decide
theorem locate_outCap : locate 0x018 = some .outCap := by decide
theorem locate_frameInfo : locate 0x01C = some .frameInfo := by decide
theorem locate_gainIn (k : Nat) (h : k < 4) : locate (0x020 + 4 * k) = some (.gainIn k) := by
  match k, h with
  | 0, _ | 1, _ | 2, _ | 3, _ => decide

/-- What a reset of the block leaves in the fields that are not the block's. -/
@[simp] theorem resetBlock_bus (s : State) : (resetBlock s).bus = s.bus := rfl
@[simp] theorem resetBlock_rdata (s : State) : (resetBlock s).rdata = s.rdata := rfl
@[simp] theorem resetBlock_cursor (s : State) : (resetBlock s).cursor = s.cursor := rfl
@[simp] theorem resetBlock_tables (s : State) : (resetBlock s).tables = s.tables := rfl
@[simp] theorem resetBlock_fresh (s : State) : (resetBlock s).fresh = s.fresh := rfl

end Sys2Proof.Machine
end

