-- ==== Sys2Proof/Laws/Tables.lean ====
section
/-! SUPPORT. Every table a command requests symbols with is a well-formed ICDF, because State holds only
records that pass the checks. -/

namespace Sys2Proof.Machine

/-- Row `i` of rows that are as `ok` says. -/
theorem rowsWf_getD {α : Type} {m : Nat} {ok : Nat → α → Bool} {rows : List α} (h : rowsWf m ok rows = true)
    (i : Nat) (d : α) (hi : i < m) : ok i (rows.getD i d) = true := by
  simp only [rowsWf, Bool.and_eq_true, decide_eq_true_eq, List.all_eq_true] at h
  have hl : i < rows.length := h.1 ▸ hi
  have := h.2 (rows[i], i) (by rw [List.mem_zipIdx_iff_getElem?]; simp [hl])
  rwa [List.getD_eq_getElem _ _ hl]

theorem numsWf_getD {m b : Nat} {xs : List Nat} (h : numsWf m b xs = true) (i d : Nat) (hi : i < m) :
    xs.getD i d < b := by
  simp only [numsWf, Bool.and_eq_true, decide_eq_true_eq, List.all_eq_true] at h
  have hl : i < xs.length := h.1 ▸ hi
  rw [List.getD_eq_getElem _ _ hl]
  exact h.2 _ (List.getElem_mem hl)

theorem intsWf_getD {m w : Nat} {xs : List Int} (h : intsWf m w xs = true) (i : Nat) (d : Int) (hi : i < m) :
    -(2 ^ (w - 1) : Nat) ≤ xs.getD i d ∧ xs.getD i d < (2 ^ (w - 1) : Nat) := by
  simp only [intsWf, Bool.and_eq_true, decide_eq_true_eq, List.all_eq_true] at h
  have hl : i < xs.length := h.1 ▸ hi
  rw [List.getD_eq_getElem _ _ hl]
  exact h.2 _ (List.getElem_mem hl)

/-- The checks of a record, one by one. -/
theorem params_wf (s : State) :
    (params s).nCb1 ≤ 256 ∧ bookWf (params s).nCb1 10 (params s).lsf.nbmb = true ∧
    bookWf (params s).nCb1 16 (params s).lsf.wb = true ∧ icdfWf 7 (params s).extIcdf = true ∧
    icdfWf ((params s).wMax + 1) (params s).interpIcdf = true ∧ (params s).wMax ≤ 255 ∧
    intsWf 129 16 (params s).cosQ12 = true ∧ icdfWf 32 (params s).pitchHighIcdf = true ∧
    (∀ bw, lagTablesWf (params s) bw = true) ∧ contourWf (params s) = true ∧ ltpWf (params s) = true ∧
    excWf (params s) = true := by
  have h := s.tables.property
  simp only [paramsWf, Bool.and_eq_true, decide_eq_true_eq] at h
  obtain ⟨⟨⟨⟨⟨⟨⟨⟨⟨⟨⟨⟨⟨h1, h2⟩, h3⟩, h4⟩, h5⟩, h6⟩, h7⟩, h8⟩, h9⟩, h10⟩, h11⟩, h12⟩, h13⟩, h14⟩ := h
  refine ⟨h1, h2, h3, h4, h5, h6, h7, h8, ?_, h12, h13, h14⟩
  intro bw
  cases bw <;> assumption

theorem book_wf (s : State) : bookWf (params s).nCb1 (order s) (book s) = true := by
  have h := params_wf s
  simp only [order, dLpc, book]
  cases bwClass s.frame.bw
  · exact h.2.1
  · exact h.2.2.1

theorem stage1Table_wf (s : State) : icdfWf (params s).nCb1 (stage1Table s) = true := by
  have h := book_wf s
  simp only [bookWf, Bool.and_eq_true] at h
  simp only [stage1Table, forVoicing]
  split
  · exact h.1.1.1.1.1.1.1.1
  · exact h.1.1.1.1.1.1.1.1
  · exact h.1.1.1.1.1.1.1.2

theorem rateTable_wf (s : State) : icdfWf 9 (forVoicing (params s).rateIcdf s.frame.sigType) = true := by
  have h := (params_wf s).2.2.2.2.2.2.2.2.2.2.2
  simp only [excWf, Bool.and_eq_true] at h
  simp only [forVoicing]
  split
  · exact h.1.1.1.1.1.1.1.2
  · exact h.1.1.1.1.1.1.1.2
  · exact h.1.1.1.1.1.1.2

theorem seedTable_wf (s : State) : icdfWf 4 (params s).seedIcdf = true := by
  have h := (params_wf s).2.2.2.2.2.2.2.2.2.2.2
  simp only [excWf, Bool.and_eq_true] at h
  exact h.1.1.1.1.1.1.1.1

theorem lsbTable_wf (s : State) : icdfWf 2 (params s).lsbIcdf = true := by
  have h := (params_wf s).2.2.2.2.2.2.2.2.2.2.2
  simp only [excWf, Bool.and_eq_true] at h
  exact h.1.1.1.2

/-- The shell table of a partition of `2^(h+1)` with `p ≥ 1` pulses has the entries `0 .. p`
(43_excitation.md R198). -/
theorem shellTable_wf (s : State) {h p : Nat} (hh : h < 4) (hp : 1 ≤ p) (hp' : p ≤ 16) :
    icdfWf (p + 1) (shellTable (params s).shellIcdf h p) = true := by
  have hw := (params_wf s).2.2.2.2.2.2.2.2.2.2.2
  simp only [excWf, Bool.and_eq_true] at hw
  have hr := rowsWf_getD (rowsWf_getD hw.1.1.1.1.2 h [] hh) (p - 1) [] (by omega)
  rw [shellTable, show p + 1 = p - 1 + 2 by omega]
  exact hr

end Sys2Proof.Machine
end

