-- ==== Sys2Proof/Tests/Slice0.lean ====
section
/-! SUPPORT. Tests: every expected value is taken from spec/95_test_vectors.md (named in the comment) or from
the rule named. Then, for every statement with hypotheses, a witness that meets them. -/

namespace Sys2Proof.Tests

set_option Elab.async false

open Sys2Proof Sys2Proof.Machine

/-! ### Helpers -/

/-- The next state an outcome holds. -/
def nextOf : Outcome → Option State
  | .next t => some t
  | .fault _ | .refused _ => none

/-- The block with the fixture T_test, PHASE as given, and the cursor's answers fixed. -/
def at' (phase : Word) (answers : List Nat) : State :=
  { State.reset with tables := fixtureTables, phase := phase, cursor := ⟨answers, 0⟩ }

/-- The same with working state. -/
def withWork (w : Work) (s : State) : State := { s with work := w }

/-- The same with the class of the frame. -/
def withFrame (bw : Bandwidth) (sig : SigType) (s : State) : State :=
  { s with frame := { s.frame with bw := bw, sigType := sig } }

/-- The same with host accesses to come. -/
def withBus (ops : List BusOp) (s : State) : State := { s with bus := ops }

/-- An array of `w`-bit elements from its first elements, the rest 0. -/
def vec {w : Nat} (n : Nat) (xs : List Int) : Vector (BitVec w) n :=
  putFirst (Vector.replicate n 0) (xs.map (BitVec.ofInt w))

/-- The arguments of V-FC-1: WB, 320 samples, Inactive, High, gains 1.0. -/
def arguments : State :=
  { at' 0 [] with
    durationNs := 20000000, cfg := 0x2, outCap := 320, frameInfo := 0x10
    gainIn := Vector.replicate 4 65536 }

/-- STATUS after a command. -/
def statusAfter (i : Instr) (s : State) : Option Word := (nextOf (exec i s)).map statusWord

/-- A record with one field changed and the fixture beside it. -/
def withParams (p : Params) (h : paramsWf p = true) (s : State) : State := { s with tables := ⟨p, h⟩ }

/-! ### WellFormed: the checks refuse ill-formed terms (30_encoding.md R81) -/

theorem test_wf_refuses_convert_set_two : (Instr.lpcConvert 2).wf = false := by decide
theorem test_wf_refuses_range_set_two : (Instr.lpcRange 2).wf = false := by decide
theorem test_wf_refuses_gainlim_set_fifteen : (Instr.lpcGainlim 15).wf = false := by decide
theorem test_wf_refuses_synth_four : (Instr.synth 4).wf = false := by decide
theorem test_wf_admits_the_last : (Instr.lpcConvert 1).wf = true ∧ (Instr.synth 3).wf = true := by decide

/-! ### Parameter records the checks refuse (40_lsf.md R101, 43_excitation.md R192) -/

theorem test_params_refuse_falling_vector :
    cb1Wf 10 [23, 47, 70, 93, 116, 140, 163, 186, 209, 209] = false := by decide
theorem test_params_refuse_wide_spacings :
    ndeltaWf 10 [250, 3, 6, 3, 3, 3, 4, 3, 3, 3, 32500] = false := by decide
theorem test_params_refuse_escape_in_row_ten :
    excWf { fixture with pulseIcdf := List.replicate 11 (uniformIcdf 18) } = false := by decide +kernel
/-- 42_ltp.md R170: filter tables of 8, 16 and 32 entries. -/
theorem test_params_refuse_short_filter_table :
    ltpWf { fixture with
      ltpFiltIcdf := [uniformIcdf 7, uniformIcdf 16, uniformIcdf 32] } = false := by decide +kernel
theorem test_params_refuse_rising_icdf : icdfWf 3 [10, 20, 0] = false := by decide

/-! ### Decode: every command's word from its row of 30_encoding.md R82 (vector V-ENC) -/

theorem test_decode_frame_control :
    decode 0b00000000000000000000000000000001 = .ok .resetState ∧
    decode 0b00000000000000000000000000000010 = .ok .frameBegin ∧
    decode 0b00000000000000000000000001010001 = .ok .frameEnd ∧
    decode 0b00000000000000000000000001111111 = .ok .decodeFrame := by decide
theorem test_decode_lsf :
    decode 0x00000010 = .ok .lsfS1 ∧ decode 0x00000011 = .ok .lsfS2 ∧
    decode 0x00000012 = .ok .lsfRecon ∧ decode 0x00000013 = .ok .lsfStab ∧
    decode 0b00000000000000000000000000010100 = .ok .lsfInterp := by decide
theorem test_decode_lpc :
    decode 0x00000020 = .ok (.lpcConvert 0) ∧ decode 0x00000120 = .ok (.lpcConvert 1) ∧
    decode 0x00000021 = .ok (.lpcRange 0) ∧ decode 0x00000121 = .ok (.lpcRange 1) ∧
    decode 0x00000022 = .ok (.lpcGainlim 0) ∧
    decode 0b00000000000000000000000100100010 = .ok (.lpcGainlim 1) := by decide
theorem test_decode_ltp :
    decode 0x00000030 = .ok .pitchLags ∧ decode 0x00000031 = .ok .ltpCoefs ∧
    decode 0b00000000000000000000000000110010 = .ok .ltpScale := by decide
theorem test_decode_excitation :
    decode 0x00000040 = .ok .excSeed ∧ decode 0x00000041 = .ok .excRate ∧
    decode 0x00000042 = .ok .excCounts ∧ decode 0x00000043 = .ok .excShell ∧
    decode 0x00000044 = .ok .excLsb ∧ decode 0x00000045 = .ok .excSigns ∧
    decode 0b00000000000000000000000001000110 = .ok .excRecon := by decide
theorem test_decode_synth :
    decode 0x00000050 = .ok (.synth 0) ∧ decode 0x00000150 = .ok (.synth 1) ∧
    decode 0x00000250 = .ok (.synth 2) ∧
    decode 0b00000000000000000000001101010000 = .ok (.synth 3) := by decide
theorem test_decode_unlisted :
    ([0x00, 0x03, 0x15, 0x23, 0x47, 0x52, 0x7E, 0x80, 0xFF] : List Word).all
      (fun w => decode w == .reject .unlistedOpcode) = true := by decide
theorem test_decode_bad_argument :
    ([0x220, 0x450, 0x110, 0xF7F] : List Word).all (fun w => decode w == .reject .argument) = true := by decide
theorem test_decode_bad_reserved :
    ([0x00001002, 0x80000050] : List Word).all (fun w => decode w == .reject .reservedBits) = true := by decide
theorem test_decode_table_word :
    decodeTableWord 32 0x150 = some (.synth 1) ∧ decodeTableWord 32 0x450 = none := by decide

/-! ### Steps and the host port -/

/-- RESET_STATE put where the next step fetches is the first command after reset (P3 row 17). -/
theorem test_step_fetch_word :
    (nextOf (step (State.reset.withFetchWord 32 0x01))).map (fun t => (t.done, t.bus)) =
      some (true, []) := by decide
/-- V-FC-13 through the host port. -/
theorem test_step_sequence_error :
    (nextOf (step ((at' 1 []).withFetchWord 32 0x12))).map statusWord = some 0x00020604 := by decide
/-- P3 row 12: an illegal word. -/
theorem test_step_illegal_word :
    (nextOf (step (withBus [.write 4 0x00C 0x220] (at' 1 [])))).map statusWord = some 0x00020504 := by
  decide
/-- 20_memory.md R75. -/
theorem test_step_refuses_half_word :
    nextOf (step (withBus [.write 2 0x010 0] (at' 0 []))) = none := by decide
/-- P3 row 1. -/
theorem test_step_reads_id :
    (nextOf (step (withBus [.read 4 0x000] (at' 0 [])))).map (·.rdata) = some 0x53464431 := by decide
/-- V-FC-23. -/
theorem test_step_clears_error :
    (nextOf (step (withBus [.write 4 0x008 4]
      { at' 0 [] with done := true, err := true, errCode := 1, irqEn := true }))).map
      (fun t => (statusWord t, irq t)) = some (0x00000002, true) := by decide
/-- 20_memory.md R62: a negative int16 element reads sign-extended. -/
theorem test_read_window_sign :
    readWord (withWork { Work.reset with aQ12 := put Work.reset.aQ12 1 (vec 16 [0, -26]) } (at' 0 []))
      0x284 = 0xFFFFFFE6 := by decide +kernel
/-- 10_state.md R23: SOFT_RESET wins over IRQ_EN. -/
theorem test_soft_reset :
    (nextOf (step (withBus [.write 4 0x004 3] { arguments with phase := 5 }))).map
      (fun t => (t.irqEn, t.phase, t.durationNs)) = some (false, 0, 0) := by decide

/-! ### Frame control -/

/-- V-FC-1. -/
theorem test_frame_begin :
    (nextOf (exec .frameBegin arguments)).map
      (fun t => (t.frame.bw, t.frame.qoff, t.frame.first, t.phase, statusWord t)) =
      some (.wb, .high, true, 1, 0x00020002) := by decide +kernel
/-- V-FC-21: a bandwidth change reinitialises; PREV_BW stays. -/
theorem test_frame_begin_reinit :
    (nextOf (exec .frameBegin
      { arguments with dec := { Decoder.reset with haveDecoded := true, lpcHist := vec 16 [5] } })).map
      (fun t => (rd t.dec.lpcHist 0 1, t.frame.first, statusWord t)) = some (0, true, 0x00020002) := by
  decide +kernel
/-- V-FC-2, V-FC-3, V-FC-4, V-FC-5, V-FC-8, V-FC-9, V-FC-10, V-FC-11. -/
theorem test_frame_begin_errors :
    statusAfter .frameBegin { arguments with durationNs := 1 } = some 0x00000104 ∧
    statusAfter .frameBegin { arguments with cfg := 0x12 } = some 0x00000204 ∧
    statusAfter .frameBegin { arguments with cfg := 0x3 } = some 0x00000404 ∧
    statusAfter .decodeFrame { arguments with outCap := 50 } = some 0x00000304 ∧
    statusAfter .frameBegin { arguments with frameInfo := 3 } = some 0x00000704 ∧
    statusAfter .decodeFrame { arguments with gainIn := arguments.gainIn.set 2 0x80000000 } =
      some 0x00000704 ∧
    statusAfter .frameBegin { arguments with durationNs := 1, cfg := 0x13, outCap := 0 } =
      some 0x00000104 ∧
    statusAfter .frameBegin { arguments with phase := 1, durationNs := 1 } = some 0x00020604 := by
  decide +kernel
/-- 45_frame_control.md R244 and P1's end: `S.OUT_HIST[k] = S.OUT[159 - k]`, then the old history. -/
theorem test_frame_end :
    (nextOf (exec .frameEnd (withWork
      { Work.reset with out := put Work.reset.out 159 7, lpcBuf := put Work.reset.lpcBuf 159 9 }
      { at' 0x3FF8FFF [] with dec := { Decoder.reset with outHist := put Decoder.reset.outHist 0 3 } }))).map
      (fun t => (rd t.dec.outHist 0 0, rd t.dec.outHist 160 0, rd t.dec.lpcHist 0 0, t.phase, statusWord t)) =
      some (7, 3, 9, 0, 0x00010002) := by decide +kernel
/-- V-FC-19. -/
theorem test_frame_end_needs_synth_three : statusAfter .frameEnd (at' 0x1FF8FFF []) = some 0x00020604 := by
  decide
/-- V-FC-20. -/
theorem test_reset_state : statusAfter .resetState { at' 5 [] with durationNs := 7 } = some 0x00000002 := by
  decide

/-! ### LSF -/

/-- 40_lsf.md R103: the answer is stored. -/
theorem test_lsf_s1 :
    (nextOf (exec .lsfS1 (at' 1 [17]))).map (fun t => (t.work.i1, t.phase, t.cursor.served)) =
      some (17, 3, 1) := by decide +kernel
/-- V-LSF-2. -/
theorem test_lsf_s2 :
    (nextOf (exec .lsfS2 (at' 3 [5, 3, 4, 8, 0, 0, 0, 8, 1, 0, 6, 4, 6, 2]))).map
      (fun t => (firstI t.work.i2 11, t.cursor.served)) =
      some ([1, -1, 0, 4, -4, 5, -10, 0, 2, -2, 0], 14) := by decide +kernel
/-- V-LSF-2. -/
theorem test_lsf_recon :
    (nextOf (exec .lsfRecon (withWork
      { Work.reset with i2 := vec 16 [1, -1, 0, 4, -4, 5, -10, 0, 2, -2] } (at' 7 [])))).map
      (fun t => (firstI t.work.resQ10 10, firstI t.work.nlsf2 10)) =
      some ([127, -76, 180, 361, -713, 12, -1782, 87, 174, -351],
        [3833, 5484, 10205, 14402, 9856, 18004, 8530, 24410, 27970, 27367]) := by decide +kernel
/-- V-LSF-1, one violating pair. -/
theorem test_lsf_stab_one_pair :
    (nextOf (exec .lsfStab (withWork
      { Work.reset with
        nlsf2 := vec 16 [3000, 6000, 9000, 12000, 15000, 14000, 21000, 24000, 27000, 30000] }
      (at' 0xF [])))).map (fun t => firstI t.work.nlsf2 10) =
      some [3000, 6000, 9000, 12000, 14499, 14502, 21000, 24000, 27000, 30000] := by decide +kernel
/-- V-LSF-1, reversed: twenty passes and the fallback. -/
theorem test_lsf_stab_fallback :
    (nextOf (exec .lsfStab (withWork
      { Work.reset with
        nlsf2 := vec 16 [30000, 27000, 24000, 21000, 18000, 15000, 12000, 9000, 6000, 3000] }
      (at' 0xF [])))).map (fun t => firstI t.work.nlsf2 10) =
      some [7469, 7472, 10423, 12619, 15144, 15147, 20440, 23064, 25498, 27748] := by decide +kernel
/-- V-LSF-3, row 2: a floor of a negative product. -/
theorem test_lsf_interp :
    (nextOf (exec .lsfInterp (withWork { Work.reset with nlsf2 := vec 16 [2000, 2001] }
      { at' 0x1F [1] with
        frame := { Latched.reset with first := false }
        dec := { Decoder.reset with prevNlsf := vec 16 [1000, 3000] } }))).map
      (fun t => (firstI t.work.nlsf1 2, t.work.interp, t.work.wQ2)) =
      some ([1250, 2750], true, 1) := by decide +kernel
/-- V-LSF-3, row 5: a first frame reads nothing. -/
theorem test_lsf_interp_first :
    (nextOf (exec .lsfInterp (withWork { Work.reset with nlsf2 := vec 16 [2000, 2001] } (at' 0x1F [1])))).map
      (fun t => (firstI t.work.nlsf1 2, t.work.interp, t.work.wQ2, t.cursor.served)) =
      some ([2000, 2001], false, 3, 0) := by decide +kernel

/-- 93_implementation_defined.md I14: a first frame with P_INTERP_READ_FIRST = TRUE reads the factor and overrides
it to W_MAX. -/
theorem test_lsf_interp_first_read :
    interpFactor (withParams { fixture with interpReadFirst := true } (by decide +kernel) (at' 0x1F [1])) =
      (3, ⟨[], 1⟩) := by decide +kernel

/-! ### LPC -/

/-- V-LPC-1 (a). -/
theorem test_lpc_convert :
    (nextOf (exec (.lpcConvert 1) (withWork
      { Work.reset with
        nlsf2 := vec 16 [2944, 6016, 8960, 11904, 14848, 17920, 20864, 23808, 26752, 29824] }
      (at' 0x3F [])))).map (fun t => firstI (t.work.a32[1]) 10) =
      some [0, -831, 2, -1046, 1, 2805, 2, 844, 1, 1536] := by decide +kernel
/-- V-FC-14. -/
theorem test_lpc_convert_set_zero : statusAfter (.lpcConvert 0) (at' 0x3F []) = some 0x00020604 := by decide
/-- V-LPC-2, row 7: two rounds. -/
theorem test_lpc_range :
    (nextOf (exec (.lpcRange 1) (withWork
      { Work.reset with a32 := put Work.reset.a32 1 (vec 16 (List.replicate 10 6000000)) }
      (at' 0x23F [])))).map (fun t => (firstI (t.work.a32[1]) 10, firstI (t.work.aQ12[1]) 10)) =
      some ([1047320, 182809, 31886, 5582, 950, 166, 36, 0, 0, 0],
        [32729, 5713, 996, 174, 30, 5, 1, 0, 0, 0]) := by decide +kernel
/-- V-LPC-3, the resonant row: two contractions. -/
theorem test_lpc_gainlim :
    (nextOf (exec (.lpcGainlim 1) (withWork
      { Work.reset with
        a32 := put Work.reset.a32 1
          (vec 16 [167407, -118625, -87991, 155546, 2903, -195601, 180248, -53617, -60411, 42211])
        aQ12 := put Work.reset.aQ12 1
          (vec 16 [5231, -3707, -2750, 4861, 91, -6113, 5633, -1676, -1888, 1319]) }
      (at' 0x63F [])))).map (fun t => (firstI (t.work.a32[1]) 10, firstI (t.work.aQ12[1]) 10)) =
      some ([167390, -118604, -87967, 155489, 2901, -195495, 180132, -53578, -60362, 42172],
        [5231, -3706, -2749, 4859, 91, -6109, 5629, -1674, -1886, 1318]) := by decide +kernel
/-- V-LPC-3, {4095, 0, …}: three contractions. -/
theorem test_lpc_gainlim_magnitude :
    gainLimit stable (131040 :: List.replicate 9 0) (4095 :: List.replicate 9 0) =
      (131012 :: List.replicate 9 0, 4094 :: List.replicate 9 0) := by decide +kernel

/-! ### Pitch and LTP -/

/-- V-LTP, row 1 (the fixture's contour 0 has offsets 0). -/
theorem test_pitch_lags :
    (nextOf (exec .pitchLags (withFrame .wb .voiced (at' 0x3F [10, 3, 0, 0, 0, 0])))).map
      (fun t => (t.work.lag, firstI t.work.pitchLag 4, t.cursor.served)) =
      some (115, [115, 115, 115, 115], 6) := by decide +kernel
/-- V-LTP, rows 3 and 5: the clamps. -/
theorem test_pitch_clamps :
    subframeLags .wb 287 [2, 1, 0, -255] = [288, 288, 287, 32] ∧
    subframeLags .mb 24 [-3, 0, 2, 200] = [24, 24, 26, 216] := by decide
/-- V-LTP: level 2, filters 0 to 3 (the fixture's level 2 has one row). -/
theorem test_ltp_coefs :
    (nextOf (exec .ltpCoefs (at' 0x103F [2, 0, 1, 2, 3]))).map
      (fun t => (t.work.ltpPer, t.work.ltpIdx.toList, firstI t.work.bQ7[3] 5)) =
      some (2, [0, 1, 2, 3], [-4, 8, 100, 8, -4]) := by decide +kernel
/-- V-LTP. -/
theorem test_ltp_scale :
    (nextOf (exec .ltpScale (at' 0x303F [2]))).map (fun t => t.work.ltpScaleQ14.toInt) = some 8192 := by
  decide +kernel

/-! ### Excitation -/

/-- P2 step 14. -/
theorem test_exc_seed :
    (nextOf (exec .excSeed (at' 0x3F [3]))).map (fun t => (t.work.seed, t.phase)) = some (3, 0x803F) := by
  decide +kernel
/-- V-FC-16. -/
theorem test_exc_seed_voiced : statusAfter .excSeed (withFrame .nb .voiced (at' 0x3F [])) = some 0x00020604 := by
  decide
/-- 43_excitation.md R191. -/
theorem test_exc_rate :
    (nextOf (exec .excRate (at' 0x803F [8]))).map (fun t => t.work.rateLevel) = some 8 := by decide +kernel
/-- V-EXC-3, rows 3 and 5. -/
theorem test_exc_counts :
    (nextOf (exec .excCounts (at' 0x1803F ([17, 17, 3] ++ List.replicate 10 17 ++ [5] ++ List.replicate 8 0)))).map
      (fun t => (t.work.pulseCount.toList.take 3, t.work.lsbCount.toList.take 3, t.cursor.served)) =
      some ([3, 5, 0], [2, 10, 0], 22) := by decide +kernel
/-- V-EXC-2, count 3. -/
theorem test_exc_shell :
    (nextOf (exec .excShell (withWork
      { Work.reset with pulseCount := putFirst (Vector.replicate 20 0) [3] }
      (at' 0x3803F [2, 1, 1, 0, 0, 1, 0, 1, 1])))).map (fun t => (firstI t.work.eRaw 16, t.cursor.served)) =
      some ([0, 1, 0, 0, 0, 0, 1, 0, 0, 0, 0, 0, 1, 0, 0, 0], 9) := by decide +kernel
/-- V-EXC-4. -/
theorem test_exc_lsb :
    (nextOf (exec .excLsb (withWork
      { Work.reset with
        lsbCount := putFirst (Vector.replicate 20 0) [2], eRaw := vec 320 [1] }
      (at' 0x7803F ([1, 0] ++ List.replicate 30 0))))).map
      (fun t => (rdI t.work.eRaw 0, t.cursor.served)) = some (6, 32) := by decide +kernel
/-- V-EXC-5. -/
theorem test_exc_signs :
    (nextOf (exec .excSigns (withWork
      { Work.reset with
        pulseCount := putFirst (Vector.replicate 20 0) [3], eRaw := vec 320 [2, 0, 1] }
      (at' 0xF803F [0, 1])))).map (fun t => (firstI t.work.eRaw 3, t.cursor.served)) =
      some ([-2, 0, 1], 2) := by decide +kernel
/-- V-EXC-1, the mixed row: seed 0, High. -/
theorem test_exc_recon :
    (nextOf (exec .excRecon (withWork { Work.reset with eRaw := vec 320 [0, -2, 0, 1, 0, 0, 3, -17407] }
      { at' 0x1F803F [] with frame := { Latched.reset with qoff := .high } }))).map
      (fun t => firstI t.work.eQ23 8) = some [60, 432, -60, -296, 60, 60, -808, -4456112] := by decide +kernel
/-- V-EXC-6: the sign of a zero depends on the pulse before it. -/
theorem test_exc_recon_divergence :
    reconstruct 196314165 907633515 25 [0, 0] 1 = [25, 25] ∧
    reconstruct 196314165 907633515 25 [4, 0] 1 = [1029, -25] := by decide

/-! ### Synthesis -/

/-- A frame before SYNTH 0, not voiced, with one coefficient, one gain and one excitation sample. -/
def impulse (a : Int) (gain : BitVec 32) (e : Int) : State :=
  withWork
    { Work.reset with aQ12 := put Work.reset.aQ12 1 (vec 16 [a]), eQ23 := vec 320 [e] }
    { at' 0x3F8E3F [] with
      frame := { Latched.reset with sigType := .unvoiced, gainQ16 := Vector.replicate 4 gain } }

/-- V-SYN-2, its first subframe. -/
theorem test_synth_impulse :
    (nextOf (exec (.synth 0) (impulse 2048 65536 4194304))).map
      (fun t => [rd t.work.out 0 0, rd t.work.out 1 0, rd t.work.out 5 0, rd t.work.out 23 0]) =
      some [0x3F000000, 0x3E800000, 0x3C800000, 0x33800000] := by decide +kernel
/-- V-SYN-3: the output is clamped, the filter state is not. -/
theorem test_synth_clamp :
    (nextOf (exec (.synth 0) (impulse (-4096) 131072 8388000))).map
      (fun t => (rd t.work.out 0 0, rd t.work.out 1 0,
        decide (rd t.work.lpcBuf 1 0 = rd t.work.lpcBuf 0 0 ^^^ 0x80000000))) =
      some (0x3F800000, 0xBF800000, true) := by decide +kernel
/-- V-FC-17. -/
theorem test_synth_order :
    statusAfter (.synth 1) (at' 0x3F8FFF []) = some 0x00020604 := by decide
/-- 44_synthesis.md R220: ties to even, subnormals kept, overflow to infinity. -/
theorem test_float_rounding :
    fpRound false 0x1000001 0 = 0x4B800000 ∧ fpRound false 0x1000003 0 = 0x4B800002 ∧
    fpRound false 1 (-149) = 0x00000001 ∧ fpRound true 1 128 = 0xFF800000 := by decide +kernel

/-- P1: the arguments and the answers of a whole frame. -/
def wholeFrameStart : State :=
  { at' 0 ([0] ++ List.replicate 10 4 ++ [0, 0, 1] ++ List.replicate 9 0 ++ [1, 1, 1, 1, 1]) with
    durationNs := 20000000, outCap := 160, frameInfo := 1, gainIn := Vector.replicate 4 6553600 }

/-- P1: the vector carried over, one excitation value, the requests, PHASE and STATUS. -/
theorem test_decode_frame :
    (nextOf (exec .decodeFrame wholeFrameStart)).map
      (fun t => (firstI t.dec.prevNlsf 2, firstI t.work.eQ23 2, t.cursor.served, t.phase, statusWord t)) =
      some ([2944, 6016], [261, -25], 28, 0, 0x00010002) := by decide +kernel

/-! ### Witnesses: what meets the hypotheses of each statement -/

/-- Words of every kind that no row of the table matches. -/
theorem witness_WordsOutsideTheTableAreIllegal :
    ([0x00, 0x03, 0x220, 0x321, 0xF22, 0x450, 0x110, 0x1002, 0x80000050] : List Word).all (fun w =>
      decide (¬(w.extractLsb' 12 20 = 0 ∧
        ((w.extractLsb' 0 8 ∈ ([0x20, 0x21, 0x22] : List (BitVec 8)) ∧ (w.extractLsb' 8 4).toNat < 2) ∨
         (w.extractLsb' 0 8 = 0x50 ∧ (w.extractLsb' 8 4).toNat < 4) ∨
         (w.extractLsb' 0 8 ∈ ([0x01, 0x02, 0x10, 0x11, 0x12, 0x13, 0x14, 0x30, 0x31, 0x32, 0x40, 0x41,
            0x42, 0x43, 0x44, 0x45, 0x46, 0x51, 0x7F] : List (BitVec 8)) ∧
          w.extractLsb' 8 4 = 0))))) = true ∧
    (withBus [.write 4 0x00C 0x220] (at' 1 [])).bus = [.write 4 0x00C 0x220] := by decide +kernel

theorem witness_UnadmittedOperandsAreIllegal :
    (Instr.lpcConvert 2).wf = false ∧ (Instr.synth 4).wf = false := by decide

theorem witness_StepRunsTheWrittenCommand :
    (withBus [.write 4 0x00C 0x350] (at' 1 [])).bus = [.write 4 0x00C 0x350] ∧
      decode 0x350 = .ok (.synth 3) := by decide

theorem witness_StepRefusesExactlyUnadmittedAccesses :
    ¬Admitted (.read 2 0x000) ∧ ¬Admitted (.write 4 0x3FFE 0) ∧ ¬Admitted (.write 0 0x010 0) ∧
    ∀ op rest, (withBus [.write 4 0x3FFC 0] (at' 0 [])).bus = op :: rest → Admitted op := by
  refine ⟨by simp [Admitted], by simp [Admitted], by simp [Admitted], ?_⟩
  intro op rest h
  cases h
  simp [Admitted]

theorem witness_AdmittedRunsNeverStop :
    PortAdmitted (withBus [.write 4 0x00C 0x7F, .read 4 0x2000, .resetPin] wholeFrameStart) := by
  intro op h
  simp only [withBus, List.mem_cons, List.not_mem_nil, or_false] at h
  rcases h with rfl | rfl | rfl <;> simp [Admitted]

theorem witness_ReadOnlyAndUnmappedWritesAreIgnored :
    ([0x000, 0x030, 0x034, 0x100, 0x2000, 0x3FFC] : List (BitVec 14)).all (fun a =>
      decide (a.toNat % 4 = 0 ∧
        a.toNat ∉ [0x004, 0x008, 0x00C, 0x010, 0x014, 0x018, 0x01C, 0x020, 0x024, 0x028, 0x02C])) = true := by
  decide +kernel

/-- The first and the last word of every unmapped range are unmapped; the words beside them are mapped. -/
theorem witness_UnmappedWordsReadZero :
    (withBus [.read 4 0x3FFC] (at' 0 [])).bus = [.read 4 0x3FFC] ∧ (0x3FFC : BitVec 14).toNat % 4 = 0 ∧
    [(0x034, 0x040), (0x06C, 0x100), (0x3B0, 0x3C0), (0x410, 0x440), (0x490, 0x500), (0x540, 0x800),
      (0xCC8, 0x1000), (0x1500, 0x1800), (0x1D00, 0x2000), (0x2500, 0x2800)].all (fun h =>
      (locate h.1).isNone && (locate (h.2 - 4)).isNone && (locate (h.1 - 4)).isSome &&
        (locate h.2).isSome) = true ∧
    locate 0x2CFC = some (.lpcBuf 319) ∧ locate 0x2D00 = none ∧ locate 0x3FFC = none := by decide +kernel

theorem witness_RegisterWritesActOnTheirFields :
    (0x2 : Word).getLsbD 0 = false ∧
    ([0x004, 0x008, 0x010, 0x014, 0x018, 0x01C, BitVec.ofNat 14 (0x020 + 4 * 3)] : List (BitVec 14)).all
      (fun a => decide ((withBus [.write 4 a 2] (at' 0 [])).bus = [.write 4 a 2])) = true := by decide +kernel

theorem witness_ResetsRestoreResetValues :
    (withBus [.resetPin] arguments).bus = [.resetPin] ∧
    (withBus [.write 4 0x004 3] arguments).bus = [.write 4 0x004 3] ∧ (3 : Word).getLsbD 0 = true := by decide

theorem witness_PreconditionsDecideSequenceErrors :
    Precondition (at' 0x3F8FFF []) (.synth 1) = false ∧ Precondition (at' 0x3F8FFF []) (.synth 0) = true ∧
    Precondition arguments .frameBegin = true ∧ (Instr.synth 3).wf = true := by decide

/-- One state for each check of FRAME_BEGIN, at the boundary of its range. -/
theorem witness_FirstFailingArgumentCheckIsReported :
    arguments.phase.getLsbD 0 = false ∧ arguments.durationNs.toNat = 20000000 ∧
    ({ arguments with durationNs := 20000001 } : State).durationNs.toNat ≠ 20000000 ∧
    (0x10 : Word).getLsbD 4 = true ∧ (0x3 : Word).toNat % 4 = 3 ∧
    ({ arguments with outCap := 319 } : State).outCap.toNat < samplesFor (arguments.cfg.toNat % 4) ∧
    samplesFor (arguments.cfg.toNat % 4) ≤ arguments.outCap.toNat ∧
    (∃ k, k < 4 ∧ rdI ({ arguments with gainIn := vec 4 [1, 1, 1, 0] } : State).gainIn k ≤ 0) := by
  refine ⟨by decide, by decide +kernel, by decide +kernel, by decide, by decide, by decide, by decide, 3, ?_⟩
  decide

/-- For FrameBeginOpensTheFrame and DecodeFrameIsItsCommandSequence. -/
theorem witness_ArgumentsOk : ArgumentsOk arguments ∧ ArgumentsOk wholeFrameStart := by
  unfold ArgumentsOk
  decide +kernel

/-- FRAME_BEGIN with a bandwidth change and without one. -/
theorem witness_FrameBeginOpensTheFrame :
    ArgumentsOk { arguments with dec := { Decoder.reset with haveDecoded := true } } ∧
    ArgumentsOk { arguments with dec := { Decoder.reset with haveDecoded := true, prevBw := .wb } } := by
  unfold ArgumentsOk
  decide +kernel

theorem witness_FrameEndCommitsTheFrame : (at' 0x3FF8FFF []).phase.getLsbD 25 = true := by decide

theorem witness_LsfS1StoresOneAnswer :
    (at' 1 []).phase.getLsbD 0 = true ∧ (at' 1 []).phase.getLsbD 1 = false := by decide

/-- The answers of V-LSF-2, extremes with their extensions among them. -/
theorem witness_LsfS2FollowsTheAnswers :
    let ans : List (Nat × Nat) :=
      [(5, 0), (3, 0), (4, 0), (8, 0), (0, 0), (8, 1), (0, 6), (4, 0), (6, 0), (2, 0)]
    (at' 3 []).phase.getLsbD 1 = true ∧ (at' 3 []).phase.getLsbD 2 = false ∧ ans.length = dLpc .nb ∧
    (∀ k, k < dLpc .nb →
      IsAnswer (fixture.lsf.nbmb.cb2Icdf.getD ((fixture.lsf.nbmb.cb2Sel.getD 0 []).getD k 0) [])
        (ans.getD k (0, 0)).1 ∧
      IsAnswer fixture.extIcdf (ans.getD k (0, 0)).2) ∧
    (at' 3 [5, 3, 4, 8, 0, 0, 0, 8, 1, 0, 6, 4, 6, 2]).cursor.script =
      (ans.flatMap fun p => if p.1 = 0 ∨ p.1 = 8 then [p.1, p.2] else [p.1]) ++ [] := by
  unfold IsAnswer
  decide +kernel

theorem witness_LsfReconFollowsTheFormula :
    (at' 7 []).phase.getLsbD 2 = true ∧ (at' 7 []).phase.getLsbD 3 = false ∧
    0 ≤ fixture.lsf.nbmb.qstepQ16 ∧ fixture.lsf.nbmb.qstepQ16 ≤ 65535 := by decide

theorem witness_ReconstructionWeightsArePositive :
    31 < fixtureTables.val.nCb1 ∧ 9 < dOfClass .nbmb ∧ 15 < dOfClass .wb := by decide

/-- A state before LSF_STAB whose vector is stable (V-LSF-1, row 1). -/
theorem witness_LsfStabKeepsMinimumSpacings :
    let s := withWork
      { Work.reset with
        nlsf2 := vec 16 [2979, 5958, 8937, 11916, 14895, 17874, 20853, 23832, 26811, 29790] } (at' 0xF [])
    let delta := fixture.lsf.nbmb.ndeltaMinQ15
    s.phase.getLsbD 3 = true ∧ s.phase.getLsbD 4 = false ∧ delta.getD 0 0 ≤ rdI s.work.nlsf2 0 ∧
    (∀ k, k < 10 → 1 ≤ k → delta.getD k 0 ≤ rdI s.work.nlsf2 k - rdI s.work.nlsf2 (k - 1)) ∧
    rdI s.work.nlsf2 9 ≤ 32768 - delta.getD 10 0 := by decide +kernel

theorem witness_FirstFramesDoNotInterpolate :
    (at' 0x1F []).phase.getLsbD 4 = true ∧ (at' 0x1F []).phase.getLsbD 5 = false ∧
    (at' 0x1F []).frame.first = true ∧ (at' 0x1F []).tables.val.interpReadFirst = false := by decide

/-- A later frame, and a record with P_INTERP_READ_FIRST = TRUE. -/
theorem witness_LsfInterpBlendsByTheFactor :
    (at' 0x1F []).phase.getLsbD 4 = true ∧ (at' 0x1F []).phase.getLsbD 5 = false ∧
    ({ at' 0x1F [] with frame := { Latched.reset with first := false } } : State).frame.first = false ∧
    (at' 0x1F []).tables.val.wMax ≤ 4 ∧ paramsWf { fixture with interpReadFirst := true } = true ∧
    paramsWf { fixture with wMax := 4, interpIcdf := uniformIcdf 5 } = true ∧
    ∀ k, 0 ≤ rdI (at' 0x1F []).dec.prevNlsf k ∧ 0 ≤ rdI (at' 0x1F []).work.nlsf2 k := by
  refine ⟨by decide, by decide, by decide, by decide, by decide +kernel, by decide +kernel, ?_⟩
  intro k
  simp [at', State.reset, Decoder.reset, Work.reset, rdI]

/-- Increasing vectors: WB has 16 positions, here NB has 10. -/
theorem witness_InterpolationKeepsOrder :
    let v : Vector (BitVec 16) 16 := vec 16 [1, 2, 3, 4, 5, 6, 7, 8, 9, 32767]
    (∀ k, k + 1 < dLpc .nb → rdI v k < rdI v (k + 1)) ∧ (∀ k, 0 ≤ rdI v k) ∧
    (at' 0x1F []).phase.getLsbD 4 = true ∧ (at' 0x1F []).phase.getLsbD 5 = false ∧
    (at' 0x1F []).tables.val.wMax ≤ 4 := by
  intro v
  have h : ∀ k, k < 16 → 0 ≤ rdI v k := by decide +kernel
  refine ⟨?_, ?_, by decide, by decide, by decide⟩
  · intro k hk
    have h : ∀ k, k < 9 → rdI v k < rdI v (k + 1) := by decide +kernel
    exact h k (by simp only [dLpc, bwClass, dOfClass] at hk; omega)
  · intro k
    by_cases hk : k < 16
    · exact h k hk
    · rw [rdI, rd_of_le _ _ _ (Nat.le_of_not_lt hk)]
      decide

theorem witness_LpcConvertWritesTheCoefficients :
    (at' 0x3F []).phase.getLsbD 5 = true ∧ (at' 0x3F []).phase.getLsbD (6 + 3 * (0 : Fin 2).val) = false ∧
    (at' 0x3F []).phase.getLsbD (6 + 3 * (1 : Fin 2).val) = false ∧
    (withWork { Work.reset with interp := true } (at' 0x3F [])).work.interp = true := by decide

theorem witness_CosinesFitSeventeenBits :
    cosCandidate.length = 129 ∧ ∀ x ∈ cosCandidate, -4096 ≤ x ∧ x ≤ 4096 := by decide +kernel

/-- Before LPC_RANGE of either set, with coefficients at the bounds of the last part. -/
theorem witness_LpcRangeRoundsEveryCoefficient :
    (at' 0x27F []).phase.getLsbD (6 + 3 * (0 : Fin 2).val) = true ∧
    (at' 0x27F []).phase.getLsbD (7 + 3 * (0 : Fin 2).val) = false ∧
    (at' 0x27F []).phase.getLsbD (6 + 3 * (1 : Fin 2).val) = true ∧
    (at' 0x27F []).phase.getLsbD (7 + 3 * (1 : Fin 2).val) = false ∧
    ∀ k, k < 10 → -1048559 ≤ rdI (vec (w := 32) 16 [1048559, -1048559]) k ∧
      rdI (vec (w := 32) 16 [1048559, -1048559]) k ≤ 1048559 := by decide +kernel

theorem witness_ExpansionFactorsAreBounded : (32767 : Int) < 32768 ∧ 15 < 16 ∧
    rangeFactor 163838 0 = 13041 := by decide

/-- Before LPC_GAINLIM of set 1, with a filter that is not STABLE and one that is (V-LPC-3). -/
theorem witness_LpcGainlimLeavesAStableFilter :
    (at' 0x63F []).phase.getLsbD (7 + 3 * (1 : Fin 2).val) = true ∧
    (at' 0x63F []).phase.getLsbD (8 + 3 * (1 : Fin 2).val) = false ∧
    (∀ k, k < 10 → -1048592 ≤ rdI (vec (w := 32) 16 [131040]) k ∧ rdI (vec (w := 32) 16 [131040]) k ≤ 1048559) ∧
    (at' 0x63F []).tables.val.pStable = .default ∧
    stable (4095 :: List.replicate 9 0) = false ∧ stable (4000 :: List.replicate 9 0) = true := by
  decide +kernel

/-- The zero vector alone is judged stable. -/
theorem witness_GainLimitingIsIdempotent :
    ∀ n : Nat, (fun a : List Int => a.all (· == 0)) (List.replicate n 0) = true := by
  intro n
  simp

/-- A voiced frame before PITCH_LAGS; records with an unsplit lag and with one contour index a frame. -/
theorem witness_PitchLagsFollowTheAnswers :
    (at' 0x3F []).phase.getLsbD 5 = true ∧ (at' 0x3F []).phase.getLsbD 12 = false ∧
    (withFrame .wb .voiced (at' 0x3F [])).frame.sigType = .voiced ∧
    forBw fixture.pitchSplit .wb = true ∧
    paramsWf { fixture with
      pitchSplit := ⟨false, true, false⟩, pitchAbsIcdf := ⟨uniformIcdf 129, uniformIcdf 256, uniformIcdf 256⟩ } =
      true ∧
    paramsWf { fixture with
      contourSel := ⟨⟨[], 0⟩, ⟨[], 0⟩, ⟨[0, 0], 1⟩⟩, contourIcdf := [uniformIcdf 1, uniformIcdf 1]
      contourCb := [[[0, 0, 0, 0]], [[1, 2, 3, 127]]] } = true ∧
    paramsWf { fixture with contourMode := .perFrame } = true := by decide +kernel

theorem witness_LtpCoefsStoreTheSelectedTaps :
    (at' 0x103F []).phase.getLsbD 12 = true ∧ (at' 0x103F []).phase.getLsbD 13 = false := by decide

theorem witness_LtpScaleStoresTheSelectedScale :
    (at' 0x303F []).phase.getLsbD 13 = true ∧ (at' 0x303F []).phase.getLsbD 14 = false := by decide

theorem witness_SeedAndRateStoreOneAnswer :
    (at' 0x703F []).phase.getLsbD 5 = true ∧ (at' 0x703F []).phase.getLsbD 15 = false ∧
    (at' 0x703F []).phase.getLsbD 14 = true ∧
    (at' 0x803F []).phase.getLsbD 15 = true ∧ (at' 0x803F []).phase.getLsbD 16 = false := by decide

theorem witness_ExcCountsStayInRange :
    (at' 0x1803F []).phase.getLsbD 16 = true ∧ (at' 0x1803F []).phase.getLsbD 17 = false ∧
    (at' 0x1803F []).work.rateLevel < 9 := by decide

/-- Ten escapes from the last rate level, and none. -/
theorem witness_EscapesCountTheLsbLevels :
    (∀ m, m < 10 → IsAnswer (fixture.pulseIcdf.getD (if m = 0 then 8 else 9) []) 17) ∧
    IsAnswer (fixture.pulseIcdf.getD 10 []) 16 ∧ IsAnswer (fixture.pulseIcdf.getD 8 []) 0 := by
  unfold IsAnswer
  decide +kernel

/-- For ShellMagnitudesSumToThePulseCount, LsbRefinementAppendsTheBits and SignsKeepMagnitudes: a block with the
largest counts before EXC_SHELL, EXC_LSB and EXC_SIGNS. -/
theorem witness_ShellLsbAndSigns :
    let s := withWork
      { Work.reset with
        pulseCount := putFirst (Vector.replicate 20 0) [16]
        lsbCount := putFirst (Vector.replicate 20 0) [10]
        eRaw := vec 320 [16] } (at' 0x3803F [])
    s.phase.getLsbD 17 = true ∧ s.phase.getLsbD 18 = false ∧
    (∀ b, b < nShell .nb → rd s.work.pulseCount b 0 ≤ 16 ∧ rd s.work.lsbCount b 0 ≤ 10) ∧
    (at' 0x7803F []).phase.getLsbD 18 = true ∧ (at' 0x7803F []).phase.getLsbD 19 = false ∧
    (∀ i, i < 160 → 0 ≤ rdI s.work.eRaw i ∧ rdI s.work.eRaw i ≤ 16) ∧
    (at' 0xF803F []).phase.getLsbD 19 = true ∧ (at' 0xF803F []).phase.getLsbD 20 = false := by decide +kernel

/-- For the second part of ShellMagnitudesSumToThePulseCount: the splits of V-EXC-2, count 3. -/
theorem witness_ShellAnswers :
    let mags : Nat → List Nat := fun b => if b = 0 then [0, 1, 0, 0, 0, 0, 1, 0, 0, 0, 0, 0, 1, 0, 0, 0]
      else List.replicate 16 0
    Answers (at' 0x3803F [2, 1, 1, 0, 0, 1, 0, 1, 1, 7])
      ((List.range (nShell .nb)).flatMap fun b => shellRequests fixture.shellIcdf 4 (mags b)) [7] ∧
    (mags 0).length = 16 ∧ (mags 0).sum = 3 ∧ (mags 1).length = 16 ∧ (mags 1).sum = 0 := by
  unfold Answers IsAnswer
  decide +kernel

/-- For the second part of LsbRefinementAppendsTheBits: the bits 1, 0 of V-EXC-4 on the first sample. -/
theorem witness_LsbAnswers :
    let bits : Nat → List Nat := fun i => if i = 0 then [1, 0] else if i < 16 then [0, 0] else []
    Answers (at' 0x7803F ([1, 0] ++ List.replicate 30 0))
      ((List.range 160).flatMap fun i => (bits i).map fun b => (fixture.lsbIcdf, b)) [] ∧
    (∀ i, i < 160 → (bits i).length =
      rd (putFirst (Vector.replicate 20 0) [2]) (i / 16) 0) := by
  unfold Answers IsAnswer
  decide +kernel

/-- For the second part of SignsKeepMagnitudes: V-EXC-5, whose second sample reads no sign. -/
theorem witness_SignsAnswers :
    let s := withWork
      { Work.reset with pulseCount := putFirst (Vector.replicate 20 0) [3], eRaw := vec 320 [2, 0, 1] }
      (at' 0xF803F [0, 1])
    Answers s (((List.range 160).filter fun i => ReadsSign s i).map fun i =>
      ((forQOff (forSigType fixture.signIcdf .inactive) .low).getD
        (min (rd s.work.pulseCount (i / 16) 0) 6) [], if i = 0 then 0 else 1)) [] ∧
    ReadsSign s 0 ∧ ¬ReadsSign s 1 ∧ ReadsSign s 2 := by
  unfold Answers IsAnswer
  decide +kernel

/-- For ExcReconFollowsTheGenerator and ExcitationDependsOnSeedClassesAndPulses: before EXC_RECON, with the
largest magnitude and the default offsets; two states that agree, at different counters. -/
theorem witness_ExcRecon :
    (at' 0x1F803F []).phase.getLsbD 20 = true ∧ (at' 0x1F803F []).phase.getLsbD 21 = false ∧
    (∀ i, i < 160 → -17407 ≤ rdI (vec (w := 32) 320 [17407, -17407]) i ∧
      rdI (vec (w := 32) 320 [17407, -17407]) i ≤ 17407) ∧
    fixture.qoffsetQ23.unvoiced.high = 60 ∧
    (at' 0x1F803F [1]).work.eRaw = ({ at' 0x1F8E3F [] with fresh := 5 } : State).work.eRaw :=
  ⟨by decide, by decide, by decide +kernel, rfl, rfl⟩

/-- A voiced frame before SYNTH 2, its lags at the ends of the range. -/
def voicedStart (lag : Int) (phase : Word) (interp : Bool) : State :=
  withWork { Work.reset with pitchLag := vec 4 [lag, lag, lag, lag], interp := interp }
    (withFrame .wb .voiced (at' phase []))

/-- For SynthFiltersTheSubframe, ResidualAddsTheLtpFilter and OutputSamplesStayWithinOne. -/
theorem witness_Synth :
    Precondition (impulse 2048 65536 4194304) (.synth 0) = true ∧
    Precondition (voicedStart 32 0xFFFFFF true) (.synth 2) = true ∧
    Precondition (voicedStart 288 0x1FFFFFF false) (.synth 3) = true ∧
    (2 : BitVec 4).toNat = (2 : Fin 4).val ∧ (voicedStart 288 0 false).frame.sigType = .voiced ∧
    (lagMin .wb : Int) ≤ lagOf (voicedStart 32 0 false) 2 ∧
    lagOf (voicedStart 288 0 false) 3 ≤ lagMax .wb ∧
    (impulse 2048 65536 0).frame.sigType ≠ .voiced := by decide +kernel

/-- The lag at the end of its range reads the oldest sample of the history, -306, and no older one. -/
theorem witness_SynthReadsOnlyWhatExists :
    (-290 : Int) ∈ indices ((firstSample (voicedStart 288 0 false) 0 : Int) -
      lagOf (voicedStart 288 0 false) 0 - 2) (outEnd (voicedStart 288 0 false) 0) ∧
    (79 : Int) ∈ samplesOf (voicedStart 288 0 false) 0 := by decide +kernel

theorem witness_FloatRoundingIsNearestEven : ∃ p q : ℚ,
    rationalOf (fpRound false 1 0) = some p ∧ rationalOf 0x3F800001 = some q ∧ q ≠ 0 := by
  have h : fpVal (fpRound false 1 0) = .fin false 8388608 (-23) := by decide +kernel
  have h' : fpVal 0x3F800001 = .fin false 8388609 (-23) := by decide +kernel
  refine ⟨_, _, by rw [rationalOf, h], by rw [rationalOf, h'], ?_⟩
  simp

/-- For CommandsWriteOnlyTheirStateClass too. -/
theorem witness_OpenFramesIgnoreArgumentWrites :
    Instr.lsfS1 ≠ .frameBegin ∧ Instr.lsfS1 ≠ .decodeFrame ∧
    Instr.lsfS1 ∉ [.frameBegin, .frameEnd, .resetState, .decodeFrame] := by decide

/-- An open frame, right after FRAME_BEGIN. -/
def opened : State := complete (frameBegin .wb .voiced arguments)

theorem witness_StepsKeepReservedBitsZero :
    ReservedZero (withBus [.write 4 0x010 0xFFFFFFFF] opened) ∧
    (nextOf (step (withBus [.write 4 0x010 0xFFFFFFFF] opened))).isSome = true := by
  unfold ReservedZero
  decide +kernel

/-- For StepsKeepPhaseOrdered too. -/
theorem witness_StepsKeepElementsInRange :
    FrameInv (withBus [.write 4 0x00C 0x10] opened) ∧
    (nextOf (step (withBus [.write 4 0x00C 0x10] opened))).isSome = true := by
  refine ⟨⟨?_, ⟨⟨?_, ?_, ?_, ?_, ?_⟩, ?_, ?_, ?_, ?_, ?_, ?_, ?_⟩, ?_⟩, ?_⟩
  · unfold PhaseOrdered Needs
    decide +kernel
  all_goals first | decide +kernel | (unfold RawInRange; decide +kernel)

end Sys2Proof.Tests
end

section
/-! PROOFS. What a command and a step can do: the commands of an open frame as stages, one for each PHASE bit,
and the chains of stages a command performs. -/

namespace Sys2Proof.Machine

/-! ### What each stage writes of the working state -/

@[simp] theorem lsfS1_work (s : State) : (lsfS1 s).work =
    { s.work with i1 := storeU s.fresh 8 (sym (stage1Table s) s.cursor).1 } := rfl

/-- The residual indices LSF_S2 draws (40_lsf.md R105). -/
def drawnIndices (s : State) : List Int :=
  (drawEach (fun k => residualIndex (params s).extIcdf (stage2Table (book s) s.work.i1.toNat k))
    (List.range (order s)) s.cursor).1

@[simp] theorem lsfS2_work (s : State) : (lsfS2 s).work =
    { s.work with i2 := storeFirst s.fresh s.work.i2 (drawnIndices s) } := rfl

@[simp] theorem lsfRecon_work (s : State) : (lsfRecon s).work =
    { s.work with
      resQ10 := storeFirst s.fresh s.work.resQ10 (frameResiduals s)
      nlsf2 := storeFirst s.fresh s.work.nlsf2 (frameRawNlsf s) } := rfl

/-- The vector LSF_STAB leaves (40_lsf.md R110). -/
def stabilisedNlsf (s : State) : List Int :=
  stabilise s.fresh (book s).ndeltaMinQ15 (firstI s.work.nlsf2 (order s))

@[simp] theorem lsfStab_work (s : State) : (lsfStab s).work =
    { s.work with nlsf2 := storeFirst s.fresh s.work.nlsf2 (stabilisedNlsf s) } := rfl

/-- Whether LSF_INTERP blends (40_lsf.md R112). -/
def interpolates (s : State) : Bool := !s.frame.first && decide ((interpFactor s).1 < (params s).wMax)

@[simp] theorem lsfInterp_work (s : State) : (lsfInterp s).work =
    { s.work with
      wQ2 := storeU s.fresh 8 (interpFactor s).1
      interp := interpolates s
      nlsf1 := storeFirst s.fresh s.work.nlsf1 (blended s (interpFactor s).1 (interpolates s)) } := rfl

@[simp] theorem lpcConvert_work (set : Fin 2) (s : State) : (lpcConvert set s).work =
    { s.work with
      a32 := putA32 s set (lpcOfNlsf s.fresh (params s).cosQ12 (book s).order (nlsfOfSet s set)) } := rfl

@[simp] theorem lpcRange_work (set : Fin 2) (s : State) : (lpcRange set s).work =
    { s.work with
      a32 := putA32 s set (rangeLimit (a32Of s set)).1
      aQ12 := putAQ12 s set (rangeLimit (a32Of s set)).2 } := rfl

@[simp] theorem lpcGainlim_work (set : Fin 2) (s : State) : (lpcGainlim set s).work =
    { s.work with
      a32 := putA32 s set (gainLimit (stableBy (params s).pStable) (a32Of s set) (aQ12Of s set)).1
      aQ12 := putAQ12 s set (gainLimit (stableBy (params s).pStable) (a32Of s set) (aQ12Of s set)).2 } := rfl

/-- S.LAG after PITCH_LAGS (42_ltp.md R171). -/
def drawnLag (s : State) : BitVec 16 := storeI s.fresh 16 (primaryLag (params s) s.frame.bw s.cursor).1

/-- The contour offsets PITCH_LAGS draws (42_ltp.md R171, R173). -/
def drawnOffsets (s : State) : List Int :=
  (lagOffsets (params s) (contourClass (params s) s.frame.bw (drawnLag s).toInt)
    (primaryLag (params s) s.frame.bw s.cursor).2).1

theorem pitchLags_pitchLag (s : State) : (pitchLags s).work.pitchLag =
    storeFirst s.fresh s.work.pitchLag (subframeLags s.frame.bw (drawnLag s).toInt (drawnOffsets s)) := rfl

/-- What PITCH_LAGS stores stays unnamed here, so that comparing the other elements never unfolds it. -/
theorem pitchLags_writes (s : State) : ∃ (lag : BitVec 16) (lags : Vector (BitVec 16) 4),
    (pitchLags s).work = { s.work with lag := lag, pitchLag := lags } := ⟨_, _, rfl⟩

/-- The periodicity level LTP_COEFS draws (42_ltp.md R174). -/
def drawnLevel (s : State) : Nat := (sym (params s).ltpPerIcdf s.cursor).1

/-- The filter indices LTP_COEFS draws after the level (42_ltp.md R174). -/
def drawnFilters (s : State) : List Nat :=
  (drawEach (fun _ c => sym ((params s).ltpFiltIcdf.getD (drawnLevel s) []) c)
    (List.range 4) (sym (params s).ltpPerIcdf s.cursor).2).1

/-- The taps LTP_COEFS stores for a subframe (42_ltp.md R174). -/
def drawnTaps (s : State) (sub : Nat) : Vector (BitVec 8) 5 :=
  storeFirst s.fresh (Vector.replicate 5 0) (ltpTaps (params s) (drawnLevel s) ((drawnFilters s).getD sub 0))

@[simp] theorem ltpCoefs_work (s : State) : (ltpCoefs s).work =
    { s.work with
      ltpPer := drawnLevel s
      ltpIdx := putFirst s.work.ltpIdx ((drawnFilters s).map (storeU s.fresh 8))
      bQ7 := build 4 (drawnTaps s) } := rfl

/-- The scale LTP_SCALE selects (42_ltp.md R176). -/
def drawnScale (s : State) : Int := (params s).ltpScaleQ14.getD (sym (params s).ltpScaleIcdf s.cursor).1 0

@[simp] theorem ltpScale_work (s : State) : (ltpScale s).work =
    { s.work with ltpScaleQ14 := storeI s.fresh 16 (drawnScale s) } := rfl

@[simp] theorem excSeed_work (s : State) : (excSeed s).work =
    { s.work with seed := (sym (params s).seedIcdf s.cursor).1 } := rfl

@[simp] theorem excRate_work (s : State) : (excRate s).work =
    { s.work with rateLevel := (sym (forVoicing (params s).rateIcdf s.frame.sigType) s.cursor).1 } := rfl

/-- The pulse and LSB counts EXC_COUNTS draws, block by block (43_excitation.md R193). -/
def drawnCounts (s : State) : List (Nat × Nat) :=
  (drawEach (fun _ => blockCount (params s).pulseIcdf s.work.rateLevel) (List.range (blocks s)) s.cursor).1

@[simp] theorem excCounts_work (s : State) : (excCounts s).work =
    { s.work with
      pulseCount := putFirst s.work.pulseCount ((drawnCounts s).map (·.1))
      lsbCount := putFirst s.work.lsbCount ((drawnCounts s).map (·.2)) } := rfl

/-- The magnitudes EXC_SHELL decodes, block by block (43_excitation.md R195). -/
def drawnMagnitudes (s : State) : List (List Nat) :=
  (drawEach (fun b => shellDecode (params s).shellIcdf 4 (rd s.work.pulseCount b 0))
    (List.range (blocks s)) s.cursor).1

@[simp] theorem excShell_work (s : State) : (excShell s).work =
    { s.work with eRaw := putRaw s ((drawnMagnitudes s).flatten.map fun (m : Nat) => (m : Int)) } := rfl

/-- The magnitudes EXC_LSB leaves (43_excitation.md R196). -/
def refinedMagnitudes (s : State) : List Int :=
  (drawEach (fun i => refine (params s).lsbIcdf (rd s.work.lsbCount (i / 16) 0) (rdI s.work.eRaw i))
    (List.range (16 * blocks s)) s.cursor).1

@[simp] theorem excLsb_work (s : State) : (excLsb s).work =
    { s.work with eRaw := putRaw s (refinedMagnitudes s) } := rfl

/-- The signed values EXC_SIGNS leaves (43_excitation.md R197). -/
def signedValues (s : State) : List Int := (drawEach (signed s) (List.range (16 * blocks s)) s.cursor).1

@[simp] theorem excSigns_work (s : State) : (excSigns s).work =
    { s.work with eRaw := putRaw s (signedValues s) } := rfl

@[simp] theorem excRecon_work (s : State) : (excRecon s).work =
    { s.work with eQ23 := storeFirst s.fresh s.work.eQ23 (frameExcitation s) } := rfl

/-- What SYNTH stores stays unnamed here, so that comparing the other elements never unfolds it. -/
theorem synth_writes (sub : Fin 4) (s : State) :
    ∃ (res : Vector F32 626) (lpc out : Vector F32 320),
      (synth sub s).work = { s.work with resBuf := res, lpcBuf := lpc, out := out } := ⟨_, _, _, rfl⟩

/-! ### The stages of a frame -/

/-- The effect of the command that marks a PHASE bit (70_reset_and_hazards.md R340). FRAME_BEGIN marks F and is no
stage; for F the bit alone is marked. -/
def stageEffect : PhaseBit → State → State
  | .f => markPhase .f
  | .s1 => lsfS1
  | .s2 => lsfS2
  | .recon => lsfRecon
  | .stab => lsfStab
  | .interp => lsfInterp
  | .conv set => lpcConvert set
  | .range set => lpcRange set
  | .gain set => lpcGainlim set
  | .pitch => pitchLags
  | .ltpc => ltpCoefs
  | .ltps => ltpScale
  | .seed => excSeed
  | .rate => excRate
  | .counts => excCounts
  | .shell => excShell
  | .lsb => excLsb
  | .signs => excSigns
  | .erecon => excRecon
  | .syn sub => synth sub

/-- What must be done before a stage (70_reset_and_hazards.md R340). -/
def Requires (s : State) : PhaseBit → Prop
  | .f => True
  | .s1 => phaseHas s .f = true
  | .s2 => phaseHas s .s1 = true
  | .recon => phaseHas s .s2 = true
  | .stab => phaseHas s .recon = true
  | .interp => phaseHas s .stab = true
  | .conv set => phaseHas s .interp = true ∧ (set = 0 → s.work.interp = true)
  | .range set => phaseHas s (.conv set) = true
  | .gain set => phaseHas s (.range set) = true
  | .pitch => phaseHas s .interp = true ∧ s.frame.sigType = .voiced
  | .ltpc => phaseHas s .pitch = true
  | .ltps => phaseHas s .ltpc = true
  | .seed => phaseHas s .interp = true ∧ (s.frame.sigType = .voiced → phaseHas s .ltps = true)
  | .rate => phaseHas s .seed = true
  | .counts => phaseHas s .rate = true
  | .shell => phaseHas s .counts = true
  | .lsb => phaseHas s .shell = true
  | .signs => phaseHas s .lsb = true
  | .erecon => phaseHas s .signs = true
  | .syn sub => phaseHas s .erecon = true ∧ phaseHas s (.gain (setOfSubframe s sub)) = true ∧
      priorDone sub s = true

/-- A stage marks its bit and writes the working state and the cursor alone. -/
theorem stageEffect_shape (b : PhaseBit) (s : State) :
    ∃ (w : Work) (c : Cursor), stageEffect b s = markPhase b { s with work := w, cursor := c } := by
  cases b <;> exact ⟨_, _, rfl⟩

@[simp] theorem phaseHas_stageEffect (b c : PhaseBit) (s : State) :
    phaseHas (stageEffect b s) c = (phaseHas s c || decide (c = b)) := by
  obtain ⟨w, cur, h⟩ := stageEffect_shape b s
  simp only [h, phaseHas_markPhase]
  simp only [phaseHas]

@[simp] theorem stageEffect_frame (b : PhaseBit) (s : State) : (stageEffect b s).frame = s.frame := by
  cases b <;> rfl

@[simp] theorem stageEffect_dec (b : PhaseBit) (s : State) : (stageEffect b s).dec = s.dec := by
  cases b <;> rfl

@[simp] theorem stageEffect_tables (b : PhaseBit) (s : State) : (stageEffect b s).tables = s.tables := by
  cases b <;> rfl

/-- The elements that the range invariants speak of and the stages that write them (10_state.md R37 to R40). -/
structure Writes (b : PhaseBit) (w w' : Work) : Prop where
  i1 : b ≠ .s1 → w'.i1 = w.i1
  i2 : b ≠ .s2 → w'.i2 = w.i2
  nlsf2 : b ≠ .recon → b ≠ .stab → w'.nlsf2 = w.nlsf2
  wQ2 : b ≠ .interp → w'.wQ2 = w.wQ2
  interp : b ≠ .interp → w'.interp = w.interp
  nlsf1 : b ≠ .interp → w'.nlsf1 = w.nlsf1
  pitchLag : b ≠ .pitch → w'.pitchLag = w.pitchLag
  ltpPer : b ≠ .ltpc → w'.ltpPer = w.ltpPer
  seed : b ≠ .seed → w'.seed = w.seed
  rateLevel : b ≠ .rate → w'.rateLevel = w.rateLevel
  pulseCount : b ≠ .counts → w'.pulseCount = w.pulseCount
  lsbCount : b ≠ .counts → w'.lsbCount = w.lsbCount
  eRaw : b ≠ .shell → b ≠ .lsb → b ≠ .signs → w'.eRaw = w.eRaw

theorem stageEffect_writes (b : PhaseBit) (s : State) : Writes b s.work (stageEffect b s).work := by
  cases b with
  | pitch =>
    obtain ⟨lag, lags, h⟩ := pitchLags_writes s
    constructor <;> simp [stageEffect, h]
  | syn sub =>
    obtain ⟨res, lpc, out, h⟩ := synth_writes sub s
    constructor <;> simp [stageEffect, h]
  | _ => constructor <;> simp [stageEffect]

/-! ### Chains of commands -/

/-- The stage `b` may run: it is not done and what it requires is. -/
def MayRun (b : PhaseBit) (s : State) : Prop := b ≠ .f ∧ Requires s b ∧ phaseHas s b = false

/-- The effect of one command, before DONE is set. DECODE_FRAME is a chain of the others. -/
inductive Action : State → State → Prop where
  | stage {s : State} (b : PhaseBit) : MayRun b s → Action s (stageEffect b s)
  | begin {s : State} {bw : Bandwidth} {sig : SigType} :
      checkFrame s = .accept bw sig → Action s (frameBegin bw sig s)
  | close {s : State} : phaseHas s (.syn 3) = true → Action s (frameEnd s)
  | clear {s : State} : Action s (resetState s)

/-- The effects of some commands, one after the other. -/
abbrev Reaches : State → State → Prop := Relation.ReflTransGen Action

/-- Stages in order. -/
def runStages (bs : List PhaseBit) (s : State) : State := bs.foldl (fun s b => stageEffect b s) s

/-- Every stage of the list may run when its turn comes. -/
def Runnable : List PhaseBit → State → Prop
  | [], _ => True
  | b :: bs, s => MayRun b s ∧ Runnable bs (stageEffect b s)

theorem reaches_runStages {bs : List PhaseBit} {s : State} (h : Runnable bs s) : Reaches s (runStages bs s) := by
  induction bs generalizing s with
  | nil => exact .refl
  | cons b bs ih => exact .head (.stage b h.1) (ih h.2)

@[simp] theorem phaseHas_runStages (bs : List PhaseBit) (s : State) (c : PhaseBit) :
    phaseHas (runStages bs s) c = (phaseHas s c || decide (c ∈ bs)) := by
  induction bs generalizing s with
  | nil => simp [runStages]
  | cons b bs ih =>
    have h : runStages (b :: bs) s = runStages bs (stageEffect b s) := rfl
    rw [h, ih, phaseHas_stageEffect]
    simp [Bool.or_assoc]

@[simp] theorem runStages_frame (bs : List PhaseBit) (s : State) : (runStages bs s).frame = s.frame := by
  induction bs generalizing s with
  | nil => rfl
  | cons b bs ih => exact (ih _).trans (stageEffect_frame b s)

/-! ### The stages of DECODE_FRAME (45_frame_control.md R246) -/

/-- The stages up to LSF_INTERP, which decides the rest. -/
def lsfStages : List PhaseBit := [.s1, .s2, .recon, .stab, .interp]

/-- The stages on one coefficient set. -/
def lpcStages (set : Fin 2) : List PhaseBit := [.conv set, .range set, .gain set]

/-- The stages of voiced frames. -/
def ltpStages : List PhaseBit := [.pitch, .ltpc, .ltps]

/-- The excitation and the synthesis. -/
def excStages : List PhaseBit :=
  [.seed, .rate, .counts, .shell, .lsb, .signs, .erecon, .syn 0, .syn 1, .syn 2, .syn 3]

/-- The stages of a frame after LSF_INTERP. -/
def lateStages (interp voiced : Bool) : List PhaseBit :=
  (if interp then lpcStages 0 else []) ++ (lpcStages 1 ++ ((if voiced then ltpStages else []) ++ excStages))

theorem runStages_append (as bs : List PhaseBit) (s : State) :
    runStages (as ++ bs) s = runStages bs (runStages as s) := List.foldl_append

theorem runStages_ite (c : Bool) (bs : List PhaseBit) (s : State) :
    runStages (if c then bs else []) s = if c then runStages bs s else s := by
  cases c <;> rfl

@[simp] theorem voiced_runStages (bs : List PhaseBit) (s : State) : voiced (runStages bs s) = voiced s := by
  simp [voiced]

theorem lpcAll_eq (set : Fin 2) (s : State) : lpcAll set s = runStages (lpcStages set) s := rfl

/-- The part of DECODE_FRAME after LSF_INTERP and before FRAME_END. -/
def lateFrame (s : State) : State :=
  let s' := lpcAll 1 (if s.work.interp then lpcAll 0 s else s)
  synth 3 (synth 2 (synth 1 (synth 0 (excAll (if voiced s' then ltpScale (ltpCoefs (pitchLags s')) else s')))))

theorem lateFrame_eq (s : State) : lateFrame s = runStages (lateStages s.work.interp (voiced s)) s := by
  have hv : voiced (lpcAll 1 (if s.work.interp then lpcAll 0 s else s)) = voiced s := by
    split <;> simp [lpcAll_eq]
  simp only [lateFrame, hv, lateStages, runStages_append, runStages_ite, ← lpcAll_eq]
  rfl

/-- DECODE_FRAME after FRAME_BEGIN is its stages in order and FRAME_END. -/
theorem wholeFrame_eq (s : State) :
    wholeFrame s = frameEnd (runStages
      (lateStages (runStages lsfStages s).work.interp (voiced s)) (runStages lsfStages s)) := by
  rw [← voiced_runStages lsfStages s, ← lateFrame_eq]
  rfl

/-- S.INTERP is written by LSF_INTERP alone. -/
theorem stageEffect_interp {b : PhaseBit} (hb : b ≠ .interp) (s : State) :
    (stageEffect b s).work.interp = s.work.interp := (stageEffect_writes b s).interp hb

theorem runnable_lsfStages {s : State} (h : ∀ c, phaseHas s c = decide (c = .f)) : Runnable lsfStages s := by
  simp [lsfStages, Runnable, MayRun, Requires, h]

/-- After LSF_INTERP the rest of the frame may run, set 0 where it interpolates, the LTP where it is voiced. -/
theorem runnable_lateStages {s : State} (h : ∀ c, phaseHas s c = decide (c ∈ PhaseBit.f :: lsfStages)) :
    Runnable (lateStages s.work.interp (voiced s)) s := by
  have hv : s.frame.sigType = .voiced ↔ voiced s = true := by simp [voiced]
  cases hi : s.work.interp <;> cases hs : voiced s <;> rw [hs] at hv <;>
    simp [lateStages, lpcStages, ltpStages, excStages, lsfStages, Runnable, MayRun, Requires, priorDone,
      setOfSubframe, stageEffect_interp, h, hi, hv]

/-! ### PHASE of an opened and of a closed frame -/

/-- FRAME_BEGIN leaves F alone set (45_frame_control.md R240). -/
@[simp] theorem phaseHas_frameBegin (bw : Bandwidth) (sig : SigType) (s : State) (c : PhaseBit) :
    phaseHas (frameBegin bw sig s) c = decide (c = .f) := by
  have h : phaseIndex c = 0 ↔ c = .f := by
    constructor
    · exact fun h => phaseIndex_injective (h.trans rfl)
    · rintro rfl
      rfl
  simp only [phaseHas, frameBegin_phase]
  rw [show (1 : Word) = 1#32 from rfl, BitVec.getLsbD_one]
  simp [h]

theorem phaseHas_of_phase_zero {s : State} (h : s.phase = 0) (c : PhaseBit) : phaseHas s c = false := by
  simp [phaseHas, h]

/-- An accepted DECODE_FRAME is a chain of the commands of its frame (45_frame_control.md R246). -/
theorem reaches_wholeFrame {s : State} {bw : Bandwidth} {sig : SigType} (h : checkFrame s = .accept bw sig) :
    Reaches s (wholeFrame (frameBegin bw sig s)) := by
  rw [wholeFrame_eq]
  have hlsf := runnable_lsfStages (phaseHas_frameBegin bw sig s)
  have hlate := runnable_lateStages (s := runStages lsfStages (frameBegin bw sig s)) fun c => by simp
  rw [voiced_runStages] at hlate
  refine .head (.begin h) (.trans (reaches_runStages hlsf) (.tail (reaches_runStages hlate) (.close ?_)))
  simp [lateStages, excStages]

/-! ### All a command can do -/

/-- The outcome of a command: an error, or the effects of some commands and DONE (60_exceptions.md R310, R311). -/
def Completes (s : State) (o : Outcome) : Prop :=
  (∃ c, o = raiseError c s) ∨ ∃ u, Reaches s u ∧ o = .next (complete u)

/-- A command with the precondition of a stage completes the stage. -/
theorem command_completes {pre : State → Bool} {b : PhaseBit} {s : State} (h : pre s = true → MayRun b s) :
    Completes s (command pre (stageEffect b) s) := by
  rcases command_cases pre (stageEffect b) s with ⟨hpre, hc⟩ | ⟨-, hc⟩
  · exact .inr ⟨_, .single (.stage b (h hpre)), hc⟩
  · exact .inl ⟨.sequenceError, hc⟩

theorem onSet_completes {arg : BitVec 4} {run : Fin 2 → State → Outcome} {s : State}
    (h : ∀ set, Completes s (run set s)) : Completes s (onSet arg run s) := by
  simp only [onSet]
  split
  · exact h _
  · exact .inl ⟨_, rfl⟩

theorem onSubframe_completes {arg : BitVec 4} {run : Fin 4 → State → Outcome} {s : State}
    (h : ∀ sub, Completes s (run sub s)) : Completes s (onSubframe arg run s) := by
  simp only [onSubframe]
  split
  · exact h _
  · exact .inl ⟨_, rfl⟩

theorem mayRun_of_after {x b : PhaseBit} {s : State} (hb : b ≠ .f) (hx : phaseHas s x = true → Requires s b)
    (h : after x b s = true) : MayRun b s := by
  simp only [after, Bool.and_eq_true, Bool.not_eq_true'] at h
  exact ⟨hb, hx h.1, h.2⟩

theorem mayConvert_mayRun {set : Fin 2} {s : State} (h : mayConvert set s = true) : MayRun (.conv set) s := by
  simp only [mayConvert, Bool.and_eq_true, Bool.or_eq_true, bne_iff_ne] at h
  exact mayRun_of_after (by simp) (fun hx => ⟨hx, fun h0 => h.2.resolve_left (absurd h0)⟩) h.1

theorem maySynth_mayRun {sub : Fin 4} {s : State} (h : maySynth sub s = true) : MayRun (.syn sub) s := by
  simp only [maySynth, Bool.and_eq_true] at h
  exact mayRun_of_after (by simp) (fun hx => ⟨hx, h.1.2, h.2⟩) h.1.1

theorem execExcSeed_completes (s : State) : Completes s (execExcSeed s) := by
  refine command_completes (b := .seed) fun h => ?_
  simp only [Bool.and_eq_true, Bool.or_eq_true, Bool.not_eq_true'] at h
  refine mayRun_of_after (by simp) (fun hx => ⟨hx, fun hv => h.2.resolve_left ?_⟩) h.1
  simp [voiced, hv]

theorem execPitchLags_completes (s : State) : Completes s (execPitchLags s) := by
  refine command_completes (b := .pitch) fun h => ?_
  simp only [Bool.and_eq_true, voiced, beq_iff_eq] at h
  exact mayRun_of_after (by simp) (fun hx => ⟨hx, h.2⟩) h.1

theorem execFrameBegin_completes (s : State) : Completes s (execFrameBegin s) := by
  simp only [execFrameBegin]
  split
  · exact .inl ⟨_, rfl⟩
  · next h => exact .inr ⟨_, .single (.begin h), rfl⟩

theorem execDecodeFrame_completes (s : State) : Completes s (execDecodeFrame s) := by
  simp only [execDecodeFrame]
  split
  · exact .inl ⟨_, rfl⟩
  · next h => exact .inr ⟨_, reaches_wholeFrame h, rfl⟩

theorem execFrameEnd_completes (s : State) : Completes s (execFrameEnd s) := by
  rcases command_cases (fun s => phaseHas s (.syn 3)) frameEnd s with ⟨hpre, hc⟩ | ⟨-, hc⟩
  · exact .inr ⟨_, .single (.close hpre), hc⟩
  · exact .inl ⟨.sequenceError, hc⟩

/-- All a command can do: an error, which ERR and ERRCODE alone show, or effects that each obey the preconditions. -/
theorem exec_completes (i : Instr) (s : State) : Completes s (exec i s) := by
  cases i with
  | resetState => exact .inr ⟨_, .single .clear, rfl⟩
  | frameBegin => exact execFrameBegin_completes s
  | lsfS1 => exact command_completes (b := .s1) (mayRun_of_after (by simp) id)
  | lsfS2 => exact command_completes (b := .s2) (mayRun_of_after (by simp) id)
  | lsfRecon => exact command_completes (b := .recon) (mayRun_of_after (by simp) id)
  | lsfStab => exact command_completes (b := .stab) (mayRun_of_after (by simp) id)
  | lsfInterp => exact command_completes (b := .interp) (mayRun_of_after (by simp) id)
  | lpcConvert arg => exact onSet_completes fun set => command_completes (b := .conv set) mayConvert_mayRun
  | lpcRange arg =>
    exact onSet_completes fun set => command_completes (b := .range set) (mayRun_of_after (by simp) id)
  | lpcGainlim arg =>
    exact onSet_completes fun set => command_completes (b := .gain set) (mayRun_of_after (by simp) id)
  | pitchLags => exact execPitchLags_completes s
  | ltpCoefs => exact command_completes (b := .ltpc) (mayRun_of_after (by simp) id)
  | ltpScale => exact command_completes (b := .ltps) (mayRun_of_after (by simp) id)
  | excSeed => exact execExcSeed_completes s
  | excRate => exact command_completes (b := .rate) (mayRun_of_after (by simp) id)
  | excCounts => exact command_completes (b := .counts) (mayRun_of_after (by simp) id)
  | excShell => exact command_completes (b := .shell) (mayRun_of_after (by simp) id)
  | excLsb => exact command_completes (b := .lsb) (mayRun_of_after (by simp) id)
  | excSigns => exact command_completes (b := .signs) (mayRun_of_after (by simp) id)
  | excRecon => exact command_completes (b := .erecon) (mayRun_of_after (by simp) id)
  | synth arg => exact onSubframe_completes fun sub => command_completes (b := .syn sub) maySynth_mayRun
  | frameEnd => exact execFrameEnd_completes s
  | decodeFrame => exact execDecodeFrame_completes s

/-! ### All a step can do -/

/-- All serving one access can do to a state: what a read, a register write, a reset or a command leaves. -/
inductive Served (s : State) : State → Prop where
  | read (w : Word) : Served s { s with rdata := w }
  | reset : Served s (resetBlock s)
  | status (v : Word) : Served s (clearStatus v s)
  | registers (en : Bool) (cfg dur cap info : Word) (gains : Vector Word 4)
      (hcfg : cfg = s.cfg ∨ ∃ v, cfg = v &&& fieldMask)
      (hinfo : info = s.frameInfo ∨ ∃ v, info = v &&& fieldMask) :
      Served s { withArguments cfg dur cap info gains s with irqEn := en }
  | error (c : ErrCode) : Served s { s with err := true, errCode := errNumber c }
  | command {u : State} (h : Reaches s u) : Served s (complete u)

/-- A read-only word, an unmapped word and no access leave the state as it is. -/
theorem Served.unchanged (s : State) : Served s s :=
  .registers s.irqEn s.cfg s.durationNs s.outCap s.frameInfo s.gainIn (.inl rfl) (.inl rfl)

theorem served_of_completes {s t : State} {o : Outcome} (h : Completes s o) (ht : o = .next t) : Served s t := by
  rcases h with ⟨c, hc⟩ | ⟨u, hu, hc⟩
  · cases hc.symm.trans ht
    exact .error c
  · cases hc.symm.trans ht
    exact .command hu

theorem runCommand_served {w : Word} {s t : State} (h : runCommand w s = .next t) : Served s t := by
  simp only [runCommand] at h
  split at h
  · exact served_of_completes (exec_completes _ s) h
  · exact served_of_completes (.inl ⟨_, rfl⟩) h

theorem writeCtrl_served (v : Word) (s : State) : Served s (writeCtrl v s) := by
  simp only [writeCtrl]
  split
  · exact .reset
  · exact .registers (v.getLsbD 1) s.cfg s.durationNs s.outCap s.frameInfo s.gainIn (.inl rfl) (.inl rfl)

theorem writeLoc_served {v : Word} {s t : State} {loc : Loc} (h : writeLoc v s loc = .next t) : Served s t := by
  cases loc with
  | cmd => exact runCommand_served h
  | ctrl => cases h; exact writeCtrl_served v s
  | status => cases h; exact .status v
  | cfg =>
    cases h
    exact .registers s.irqEn _ s.durationNs s.outCap s.frameInfo s.gainIn (.inr ⟨v, rfl⟩) (.inl rfl)
  | durationNs => cases h; exact .registers s.irqEn s.cfg v s.outCap s.frameInfo s.gainIn (.inl rfl) (.inl rfl)
  | outCap => cases h; exact .registers s.irqEn s.cfg s.durationNs v s.frameInfo s.gainIn (.inl rfl) (.inl rfl)
  | frameInfo =>
    cases h
    exact .registers s.irqEn s.cfg s.durationNs s.outCap _ s.gainIn (.inl rfl) (.inr ⟨v, rfl⟩)
  | gainIn k =>
    cases h
    exact .registers s.irqEn s.cfg s.durationNs s.outCap s.frameInfo (put s.gainIn k v) (.inl rfl) (.inl rfl)
  | _ => cases h; exact .unchanged s

/-- All a step can do: the next access leaves the port and is served. -/
theorem step_served {s t : State} (h : step s = .next t) : ∃ rest, Served { s with bus := rest } t := by
  rcases step_cases s with ⟨-, hs⟩ | ⟨rest, -, hs⟩ | ⟨size, a, rest, -, hs⟩ | ⟨size, a, v, rest, -, hs⟩ <;>
    rw [hs] at h
  · cases h
    exact ⟨s.bus, .unchanged s⟩
  · cases h
    exact ⟨rest, .reset⟩
  · split at h
    · cases h
      exact ⟨rest, .read _⟩
    · cases h
  · split at h
    · refine ⟨rest, ?_⟩
      simp only [writeWord] at h
      split at h
      · exact writeLoc_served h
      · cases h
        exact .unchanged _
    · cases h

/-- What every effect of a command keeps, a chain of them keeps. -/
theorem reaches_keeps {P : State → Prop} (h : ∀ s t, Action s t → P s → P t) {s t : State} (hs : P s)
    (hr : Reaches s t) : P t := by
  induction hr with
  | refl => exact hs
  | tail _ ha ih => exact h _ _ ha ih

end Sys2Proof.Machine
end

section
/-! PROOFS. The host registers: what writes to them do, STATUS as it reads, the reserved bits, and the argument
registers a command does not read. -/

namespace Sys2Proof.Machine

/-! ### Reserved bits -/

theorem reservedZero_reset : ReservedZero State.reset := by
  refine ⟨rfl, rfl, ?_, ?_, fun _ => rfl⟩
  · simp [State.reset]
  · exact fun h => absurd h (by simp [State.reset])

theorem masked_reserved (v : Word) : (v &&& fieldMask) &&& ~~~0x13#32 = 0 := by
  rw [BitVec.and_assoc, show fieldMask &&& ~~~0x13#32 = 0#32 by decide, BitVec.and_zero]
  rfl

theorem errNumber_range (c : ErrCode) : 1 ≤ (errNumber c).toNat ∧ (errNumber c).toNat ≤ 7 := by
  cases c <;> decide

/-- Marking a PHASE bit sets no reserved bit. -/
theorem markPhase_phase_lt (b : PhaseBit) {s : State} (h : s.phase.toNat < 2 ^ 26) :
    (markPhase b s).phase.toNat < 2 ^ 26 := by
  rw [markPhase_phase, BitVec.toNat_or]
  refine Nat.or_lt_two_pow h ?_
  have hb : 2 ^ phaseIndex b < 2 ^ 26 := Nat.pow_lt_pow_right (by decide) (phaseIndex_lt b)
  rw [BitVec.toNat_shiftLeft, BitVec.toNat_one (by decide), Nat.shiftLeft_eq, one_mul,
    Nat.mod_eq_of_lt (hb.trans (by decide))]
  exact hb

theorem action_keeps_reservedZero {s t : State} (h : Action s t) (hs : ReservedZero s) : ReservedZero t := by
  obtain ⟨hcfg, hinfo, hphase, herr, hcode⟩ := hs
  cases h with
  | stage b _ =>
    obtain ⟨w, c, hb⟩ := stageEffect_shape b s
    rw [hb]
    exact ⟨hcfg, hinfo, markPhase_phase_lt b hphase, herr, hcode⟩
  | begin _ => exact ⟨hcfg, hinfo, by simp, herr, hcode⟩
  | close _ => exact ⟨hcfg, hinfo, by simp, herr, hcode⟩
  | clear => exact ⟨hcfg, hinfo, by simp, herr, hcode⟩

theorem clearStatus_reservedZero (v : Word) {s : State} (hs : ReservedZero s) : ReservedZero (clearStatus v s) := by
  obtain ⟨hcfg, hinfo, hphase, herr, hcode⟩ := hs
  refine ⟨hcfg, hinfo, hphase, ?_, ?_⟩ <;> rw [clearStatus_err, clearStatus_errCode] <;>
    cases v.getLsbD 2
  · simpa using herr
  · simp
  · simpa using hcode
  · simp

theorem served_reservedZero {s t : State} (h : Served s t) (hs : ReservedZero s) : ReservedZero t := by
  cases h with
  | read w => exact hs
  | reset => exact reservedZero_reset
  | status v => exact clearStatus_reservedZero v hs
  | registers en cfg dur cap info gains hcfg hinfo =>
    obtain ⟨h1, h2, hrest⟩ := hs
    refine ⟨?_, ?_, hrest⟩
    · rcases hcfg with rfl | ⟨v, rfl⟩
      · exact h1
      · exact masked_reserved v
    · rcases hinfo with rfl | ⟨v, rfl⟩
      · exact h2
      · exact masked_reserved v
  | error c =>
    obtain ⟨h1, h2, h3, -, -⟩ := hs
    exact ⟨h1, h2, h3, fun _ => errNumber_range c, fun h => absurd h (by simp)⟩
  | command h =>
    obtain ⟨hcfg, hinfo, hphase, herr, hcode⟩ := reaches_keeps (fun _ _ => action_keeps_reservedZero) hs h
    exact ⟨hcfg, hinfo, hphase, herr, hcode⟩

/-! ### Writes to the host registers -/

/-- A step that serves a word write to the address of `loc`. -/
theorem step_writeLoc {s : State} {a : BitVec 14} {v : Word} {rest : List BusOp} {loc : Loc}
    (h : s.bus = .write 4 a v :: rest) (ha : a.toNat % 4 = 0) (hloc : locate a.toNat = some loc) :
    step s = writeLoc v { s with bus := rest } loc := by
  rw [step_of_write h ha, writeWord, hloc]

theorem put_eq_set {α : Type} {n : Nat} (v : Vector α n) (k : Nat) (h : k < n) (x : α) :
    put v k x = v.set k x := by
  apply eq_of_rd x
  intro i hi
  rw [rd_put, rd_eq_getElem _ _ _ hi, rd_eq_getElem _ _ _ hi, Vector.getElem_set]
  simp [hi, eq_comm]

/-! ### STATUS as it reads -/

theorem getLsbD_of_div_mod {w : Word} {i : Nat} {b : Bool} (h : w.toNat / 2 ^ i % 2 = b.toNat) :
    w.getLsbD i = b := by
  rw [BitVec.getLsbD, Nat.testBit_eq_decide_div_mod_eq, h]
  cases b <;> rfl

theorem toNat_extractLsb'_div (w : Word) (i n : Nat) : (w.extractLsb' i n).toNat = w.toNat / 2 ^ i % 2 ^ n := by
  rw [BitVec.extractLsb'_toNat, Nat.shiftRight_eq_div_pow]

theorem bwCode_le (bw : Bandwidth) : bwCode bw ≤ 2 := by
  cases bw <;> decide

/-- The fields of STATUS are the digits of its value: each fits its place (10_state.md R22). -/
theorem statusWord_toNat (s : State) : (statusWord s).toNat =
    2 * s.done.toNat + 4 * s.err.toNat + 2 ^ 8 * s.errCode.toNat + 2 ^ 16 * s.dec.haveDecoded.toNat +
      2 ^ 17 * (phaseHas s .f).toNat + 2 ^ 18 * bwCode s.dec.prevBw := by
  have hd := s.done.toNat_lt
  have he := s.err.toNat_lt
  have hc := s.errCode.isLt
  have hh := s.dec.haveDecoded.toNat_lt
  have hf := (phaseHas s .f).toNat_lt
  have hb := bwCode_le s.dec.prevBw
  rw [statusWord, BitVec.toNat_ofNat]
  exact Nat.mod_eq_of_lt (by omega)

/-! ### Reset values -/

theorem allAre_replicate {α : Type} (n : Nat) (d : α) : AllAre (Vector.replicate n d) d := by
  intro k h
  simp

theorem decoderCleared_reset : DecoderCleared Decoder.reset :=
  ⟨allAre_replicate _ _, rfl, allAre_replicate _ _, allAre_replicate _ _⟩

theorem latchedCleared_reset : LatchedCleared Latched.reset := ⟨rfl, rfl, rfl, allAre_replicate _ _, rfl⟩

theorem workCleared_reset : WorkCleared Work.reset := by
  refine ⟨rfl, allAre_replicate _ _, allAre_replicate _ _, allAre_replicate _ _, allAre_replicate _ _, rfl, rfl,
    fun set => ⟨?_, ?_⟩, rfl, allAre_replicate _ _, rfl, allAre_replicate _ _, fun sub => ?_, rfl, rfl, rfl,
    allAre_replicate _ _, allAre_replicate _ _, allAre_replicate _ _, allAre_replicate _ _,
    allAre_replicate _ _, allAre_replicate _ _, allAre_replicate _ _⟩
  · simpa [Work.reset] using allAre_replicate 16 (0 : BitVec 32)
  · simpa [Work.reset] using allAre_replicate 16 (0 : BitVec 16)
  · simpa [Work.reset] using allAre_replicate 5 (0 : BitVec 8)

/-! ### The argument registers -/

section
variable (cfg dur cap info : Word) (gains : Vector Word 4)

/-- No stage of a frame reads the argument registers (10_state.md R35). -/
theorem stageEffect_withArguments (b : PhaseBit) (s : State) :
    stageEffect b (withArguments cfg dur cap info gains s) =
      withArguments cfg dur cap info gains (stageEffect b s) := by
  cases b <;> rfl

/-- The outcome of `run` is the same but for the argument registers where they hold something else before. -/
def IgnoresArguments (run : State → Outcome) (s : State) : Prop :=
  ∃ t, run s = .next t ∧ run (withArguments cfg dur cap info gains s) =
    .next (withArguments cfg dur cap info gains t)

theorem command_ignoresArguments {pre : State → Bool} {effect : State → State} {s : State}
    (hpre : pre (withArguments cfg dur cap info gains s) = pre s)
    (heffect : effect (withArguments cfg dur cap info gains s) =
      withArguments cfg dur cap info gains (effect s)) :
    IgnoresArguments cfg dur cap info gains (command pre effect) s := by
  rcases command_cases pre effect s with ⟨h, hc⟩ | ⟨h, hc⟩
  · refine ⟨_, hc, ?_⟩
    rw [command_of_pre _ (hpre.trans h), heffect]
    rfl
  · exact ⟨_, hc, command_of_not_pre _ (hpre.trans h)⟩

theorem onSet_ignoresArguments {arg : BitVec 4} {run : Fin 2 → State → Outcome} {s : State}
    (h : ∀ set, IgnoresArguments cfg dur cap info gains (run set) s) :
    IgnoresArguments cfg dur cap info gains (onSet arg run) s := by
  cases hl : lpcSetOf arg with
  | some set => simpa only [IgnoresArguments, onSet, hl] using h set
  | none => exact ⟨_, by simp only [onSet, hl]; rfl, by simp only [onSet, hl]; rfl⟩

theorem onSubframe_ignoresArguments {arg : BitVec 4} {run : Fin 4 → State → Outcome} {s : State}
    (h : ∀ sub, IgnoresArguments cfg dur cap info gains (run sub) s) :
    IgnoresArguments cfg dur cap info gains (onSubframe arg run) s := by
  cases hl : subframeOf arg with
  | some sub => simpa only [IgnoresArguments, onSubframe, hl] using h sub
  | none => exact ⟨_, by simp only [onSubframe, hl]; rfl, by simp only [onSubframe, hl]; rfl⟩

/-- A command with the effect of a stage ignores the argument registers where its precondition does. -/
theorem stage_ignoresArguments (b : PhaseBit) {pre : State → Bool} {s : State}
    (hpre : pre (withArguments cfg dur cap info gains s) = pre s) :
    IgnoresArguments cfg dur cap info gains (command pre (stageEffect b)) s :=
  command_ignoresArguments cfg dur cap info gains hpre (stageEffect_withArguments cfg dur cap info gains b s)

theorem exec_ignoresArguments {i : Instr} (s : State) (hb : i ≠ .frameBegin) (hd : i ≠ .decodeFrame) :
    IgnoresArguments cfg dur cap info gains (exec i) s := by
  have stage := fun b pre => stage_ignoresArguments cfg dur cap info gains b (pre := pre) (s := s)
  cases i with
  | resetState => exact ⟨_, rfl, rfl⟩
  | frameBegin => exact absurd rfl hb
  | decodeFrame => exact absurd rfl hd
  | lsfS1 => exact stage .s1 _ rfl
  | lsfS2 => exact stage .s2 _ rfl
  | lsfRecon => exact stage .recon _ rfl
  | lsfStab => exact stage .stab _ rfl
  | lsfInterp => exact stage .interp _ rfl
  | lpcConvert arg => exact onSet_ignoresArguments _ _ _ _ _ fun set => stage (.conv set) _ rfl
  | lpcRange arg => exact onSet_ignoresArguments _ _ _ _ _ fun set => stage (.range set) _ rfl
  | lpcGainlim arg => exact onSet_ignoresArguments _ _ _ _ _ fun set => stage (.gain set) _ rfl
  | pitchLags => exact stage .pitch _ rfl
  | ltpCoefs => exact stage .ltpc _ rfl
  | ltpScale => exact stage .ltps _ rfl
  | excSeed => exact stage .seed _ rfl
  | excRate => exact stage .rate _ rfl
  | excCounts => exact stage .counts _ rfl
  | excShell => exact stage .shell _ rfl
  | excLsb => exact stage .lsb _ rfl
  | excSigns => exact stage .signs _ rfl
  | excRecon => exact stage .erecon _ rfl
  | synth arg => exact onSubframe_ignoresArguments _ _ _ _ _ fun sub => stage (.syn sub) _ rfl
  | frameEnd => exact command_ignoresArguments _ _ _ _ _ rfl rfl

end

end Sys2Proof.Machine
end

section
/-! PROOFS. The order of PHASE: every bit is set only with what its command requires, and every effect of a command
keeps that. -/

namespace Sys2Proof.Machine

/-- PHASE is ordered where every bit that is set has what its stage requires. -/
theorem phaseOrdered_iff (s : State) : PhaseOrdered s ↔ ∀ b, phaseHas s b = true → Requires s b := by
  constructor
  · rintro ⟨hs1, hs2, hrecon, hstab, hinterp, hlpc, hconv0, hpitch, hvoiced, hltpc, hltps, hseed, hseedv, hrate,
      hcounts, hshell, hlsb, hsigns, herecon, hsyn, h1, h2, h3⟩ b hb
    cases b with
    | f => trivial
    | s1 => exact hs1 hb
    | s2 => exact hs2 hb
    | recon => exact hrecon hb
    | stab => exact hstab hb
    | interp => exact hinterp hb
    | conv set => exact ⟨(hlpc set).1 hb, fun h => hconv0 (h ▸ hb)⟩
    | range set => exact (hlpc set).2.1 hb
    | gain set => exact (hlpc set).2.2 hb
    | pitch => exact ⟨hpitch hb, hvoiced hb⟩
    | ltpc => exact hltpc hb
    | ltps => exact hltps hb
    | seed => exact ⟨hseed hb, hseedv hb⟩
    | rate => exact hrate hb
    | counts => exact hcounts hb
    | shell => exact hshell hb
    | lsb => exact hlsb hb
    | signs => exact hsigns hb
    | erecon => exact herecon hb
    | syn sub =>
      refine ⟨(hsyn sub).1 hb, (hsyn sub).2 hb, ?_⟩
      match sub with
      | 0 => rfl
      | 1 => exact h1 hb
      | 2 => exact h2 hb
      | 3 => exact h3 hb
  · intro h
    exact ⟨h .s1, h .s2, h .recon, h .stab, h .interp,
      fun set => ⟨fun hb => (h (.conv set) hb).1, h (.range set), h (.gain set)⟩,
      fun hb => (h (.conv 0) hb).2 rfl, fun hb => (h .pitch hb).1, fun hb => (h .pitch hb).2, h .ltpc, h .ltps,
      fun hb => (h .seed hb).1, fun hb => (h .seed hb).2, h .rate, h .counts, h .shell, h .lsb, h .signs, h .erecon,
      fun sub => ⟨fun hb => (h (.syn sub) hb).1, fun hb => (h (.syn sub) hb).2.1⟩,
      fun hb => (h (.syn 1) hb).2.2, fun hb => (h (.syn 2) hb).2.2, fun hb => (h (.syn 3) hb).2.2⟩

/-- Pulses are counted only in an open frame. -/
theorem f_of_counts {s : State} (h : PhaseOrdered s) (hb : phaseHas s .counts = true) :
    phaseHas s .f = true := by
  rw [phaseOrdered_iff] at h
  exact h .s1 (h .s2 (h .recon (h .stab (h .interp (h .seed (h .rate (h .counts hb))).1))))

/-- A set of coefficients is limited only after LSF_INTERP. -/
theorem interp_of_gain {s : State} (h : PhaseOrdered s) {set : Fin 2}
    (hb : phaseHas s (.gain set) = true) : phaseHas s .interp = true := by
  rw [phaseOrdered_iff] at h
  exact (h (.conv set) (h (.range set) (h (.gain set) hb))).1

/-- What a stage requires stays done when more bits are set, as long as the frame keeps its class and S.INTERP is not
written after LSF_INTERP. -/
theorem requires_mono {s t : State} {b : PhaseBit} (hord : PhaseOrdered s)
    (hbits : ∀ c, phaseHas s c = true → phaseHas t c = true) (hframe : t.frame = s.frame)
    (hinterp : phaseHas s .interp = true → t.work.interp = s.work.interp) (h : Requires s b) : Requires t b := by
  cases b with
  | f => trivial
  | conv set => exact ⟨hbits _ h.1, fun h0 => (hinterp h.1).trans (h.2 h0)⟩
  | pitch => exact ⟨hbits _ h.1, hframe ▸ h.2⟩
  | seed => exact ⟨hbits _ h.1, fun hv => hbits _ (h.2 (hframe ▸ hv))⟩
  | syn sub =>
    obtain ⟨hexc, hgain, hprior⟩ := h
    have hset : setOfSubframe t sub = setOfSubframe s sub := by
      rw [setOfSubframe, setOfSubframe, hinterp (interp_of_gain hord hgain)]
    refine ⟨hbits _ hexc, hset ▸ hbits _ hgain, ?_⟩
    match sub with
    | 0 => rfl
    | 1 => exact hbits _ hprior
    | 2 => exact hbits _ hprior
    | 3 => exact hbits _ hprior
  | _ => exact hbits _ h

theorem stage_keeps_phaseOrdered {b : PhaseBit} {s : State} (hrun : MayRun b s) (hs : PhaseOrdered s) :
    PhaseOrdered (stageEffect b s) := by
  obtain ⟨-, hreq, hnew⟩ := hrun
  have hmono : ∀ c, Requires s c → Requires (stageEffect b s) c := fun c =>
    requires_mono hs (fun x hx => by simp [hx]) (stageEffect_frame b s) fun hi =>
      (stageEffect_writes b s).interp (by rintro rfl; simp [hi] at hnew)
  rw [phaseOrdered_iff] at hs ⊢
  intro c hc
  rw [phaseHas_stageEffect, Bool.or_eq_true, decide_eq_true_eq] at hc
  rcases hc with hc | rfl
  · exact hmono c (hs c hc)
  · exact hmono c hreq

/-- With no bit but F set PHASE is ordered. -/
theorem phaseOrdered_of_only_f {s : State} (h : ∀ c, phaseHas s c = true → c = .f) : PhaseOrdered s := by
  rw [phaseOrdered_iff]
  intro c hc
  rw [h c hc]
  trivial

theorem phaseOrdered_of_phase_zero {s : State} (h : s.phase = 0) : PhaseOrdered s :=
  phaseOrdered_of_only_f fun c hc => by simp [phaseHas_of_phase_zero h] at hc

theorem action_keeps_phaseOrdered {s t : State} (h : Action s t) (hs : PhaseOrdered s) : PhaseOrdered t := by
  cases h with
  | stage b hrun => exact stage_keeps_phaseOrdered hrun hs
  | begin _ => exact phaseOrdered_of_only_f fun c hc => by simpa using hc
  | close _ => exact phaseOrdered_of_phase_zero (frameEnd_phase s)
  | clear => exact phaseOrdered_of_phase_zero (resetState_phase s)

end Sys2Proof.Machine
end

section
/-! PROOFS. Elements of arrays after their first elements are replaced, and results of drawing, by a property of what
is stored or drawn. -/

namespace Sys2Proof.Machine

/-- The range of a `w`-bit two's-complement element. -/
def Fits (w : Nat) (v : Int) : Prop := -(2 ^ (w - 1) : Nat) ≤ v ∧ v < (2 ^ (w - 1) : Nat)

/-- A replaced array reads inside its bounds as the list, as far as that goes, and else as before. -/
theorem rd_putFirst_of_lt {α : Type} {n : Nat} (v : Vector α n) (xs : List α) (i : Nat) (d : α) (hi : i < n) :
    rd (putFirst v xs) i d = if i < xs.length then xs.getD i d else rd v i d := by
  simp only [rd, putFirst, Vector.toList, List.getD_eq_getElem?_getD, List.getElem?_take, if_pos hi,
    List.getElem?_append, List.getElem?_drop]
  split
  · rfl
  · next h => rw [Nat.add_sub_cancel' (Nat.le_of_not_lt h)]

/-- What holds of every value stored and of the old element holds of the new one. -/
theorem rd_putFirst_induct {α : Type} {n : Nat} {v : Vector α n} {xs : List α} {i : Nat} {d : α} {P : α → Prop}
    (hi : i < n) (hxs : ∀ x ∈ xs, P x) (hv : P (rd v i d)) : P (rd (putFirst v xs) i d) := by
  rw [rd_putFirst_of_lt v xs i d hi]
  split
  · next h =>
    rw [List.getD_eq_getElem _ _ h]
    exact hxs _ (List.getElem_mem h)
  · exact hv

/-- What holds of every integer stored, each in the range of its element, and of the old element holds of the new
one. -/
theorem rdI_storeFirst_induct {w m n : Nat} {v : Vector (BitVec w) m} {xs : List Int} {i : Nat} {P : Int → Prop}
    (hw : 0 < w) (hi : i < m) (hxs : ∀ x ∈ xs, Fits w x ∧ P x) (hv : P (rdI v i)) :
    P (rdI (storeFirst n v xs) i) := by
  refine rd_putFirst_induct (P := fun x : BitVec w => P x.toInt) hi (fun x hx => ?_) hv
  obtain ⟨y, hy, rfl⟩ := List.mem_map.mp hx
  obtain ⟨⟨hlo, hhi⟩, hP⟩ := hxs y hy
  rwa [storeI_toInt n hw hlo hhi]

/-- Every result of drawing is what one of the list's elements draws. -/
theorem exists_of_mem_drawEach {α β : Type} {f : α → Cursor → β × Cursor} {as : List α} {c : Cursor} {y : β}
    (h : y ∈ (drawEach f as c).1) : ∃ a ∈ as, ∃ c', y = (f a c').1 := by
  induction as generalizing c with
  | nil => simp [drawEach] at h
  | cons a as ih =>
    rcases List.mem_cons.mp h with rfl | h
    · exact ⟨a, List.mem_cons_self, c, rfl⟩
    · obtain ⟨b, hb, hy⟩ := ih h
      exact ⟨b, List.mem_cons_of_mem _ hb, hy⟩

/-! ### Sizes of the frame -/

theorem blocks_le (s : State) : blocks s ≤ 20 := by
  simp only [blocks, nShell]
  split <;> decide

theorem order_pos (s : State) : 0 < order s := by
  simp only [order, dLpc, dOfClass]
  split <;> decide

theorem order_le (s : State) : order s ≤ 16 := by
  simp only [order, dLpc, dOfClass]
  split <;> decide

/-! ### Tables of the record -/

/-- An answer of a table of `m` entries is below `m`. -/
theorem sym_lt {m : Nat} {tab : Icdf} (h : icdfWf m tab = true) (c : Cursor) : (sym tab c).1 < m :=
  (sym_spec h c).2.1

theorem nCb1_pos (s : State) : 0 < (params s).nCb1 := by
  have h := stage1Table_wf s
  simp only [icdfWf, Bool.and_eq_true, decide_eq_true_eq] at h
  exact h.1.2

/-- The stage-2 table of every position is an ICDF of 9 entries (40_lsf.md R104). -/
theorem stage2Table_wf (s : State) {i1 k : Nat} (hi : i1 < (params s).nCb1) (hk : k < order s) :
    icdfWf 9 (stage2Table (book s) i1 k) = true := by
  have h := book_wf s
  simp only [bookWf, Bool.and_eq_true] at h
  obtain ⟨⟨⟨⟨⟨⟨⟨⟨-, -⟩, -⟩, hsel⟩, hicdf⟩, -⟩, -⟩, -⟩, -⟩ := h
  exact rowsWf_getD hicdf _ [] (numsWf_getD (rowsWf_getD hsel i1 [] hi) k 0 hk)

theorem spacings_wf (s : State) : ndeltaWf (order s) (book s).ndeltaMinQ15 = true := by
  have h := book_wf s
  simp only [bookWf, Bool.and_eq_true] at h
  exact h.1.2

theorem levelTable_wf (s : State) : icdfWf 3 (params s).ltpPerIcdf = true := by
  obtain ⟨-, -, -, -, -, -, -, -, -, -, h, -⟩ := params_wf s
  simp only [ltpWf, Bool.and_eq_true] at h
  exact h.1.1.1.1

/-- The pulse tables: rows 0 to 9 answer 0 to 17, row 10 at most 16 (43_excitation.md R192). -/
theorem pulseRows_wf (s : State) : rowsWf 11 (fun r t => if r < 10 then icdfWf 18 t
    else icdfWf t.length t && decide (t.length ≤ 17)) (params s).pulseIcdf = true := by
  obtain ⟨-, -, -, -, -, -, -, -, -, -, -, h⟩ := params_wf s
  simp only [excWf, Bool.and_eq_true] at h
  exact h.1.1.1.1.1.2

theorem pulseRow_le (s : State) {r : Nat} (hr : r < 10) (c : Cursor) :
    (sym ((params s).pulseIcdf.getD r []) c).1 ≤ 17 := by
  have h := rowsWf_getD (pulseRows_wf s) r [] (by omega)
  rw [if_pos hr] at h
  exact Nat.le_of_lt_succ (sym_lt h c)

theorem pulseRow_last_le (s : State) (c : Cursor) : (sym ((params s).pulseIcdf.getD 10 []) c).1 ≤ 16 := by
  have h := rowsWf_getD (pulseRows_wf s) 10 [] (by omega)
  rw [if_neg (by omega), Bool.and_eq_true, decide_eq_true_eq] at h
  have := sym_lt h.1 c
  omega

end Sys2Proof.Machine
end

section
/-! PROOFS. The ranges of what the excitation commands draw (10_state.md R40, 43_excitation.md R193 to R197). -/

namespace Sys2Proof.Machine

/-- After any number of escapes a block has at most 16 pulses and 10 LSB levels (43_excitation.md R193): the tenth
escape draws from row 10, which answers no 17. -/
theorem escapes_le (s : State) (left pc : Nat) (c : Cursor) (hl : left ≤ 10) (hpc : pc ≤ 17)
    (h0 : left = 0 → pc ≤ 16) :
    (escapes (params s).pulseIcdf left pc c).1.1 ≤ 16 ∧ (escapes (params s).pulseIcdf left pc c).1.2 ≤ 10 := by
  induction left generalizing pc c with
  | zero => exact ⟨h0 rfl, le_refl 10⟩
  | succ left ih =>
    simp only [escapes]
    split
    · by_cases hlast : left = 0
      · rw [if_pos hlast]
        have hle := pulseRow_last_le s c
        exact ih _ _ (by omega) (by omega) fun _ => hle
      · rw [if_neg hlast]
        exact ih _ _ (by omega) (pulseRow_le s (by omega) c) fun h => absurd h hlast
    · exact ⟨by dsimp only; omega, by dsimp only; omega⟩

theorem drawnCounts_le {s : State} (hrate : s.work.rateLevel < 9) : ∀ p ∈ drawnCounts s, p.1 ≤ 16 ∧ p.2 ≤ 10 := by
  intro p hp
  obtain ⟨-, -, c, rfl⟩ := exists_of_mem_drawEach hp
  exact escapes_le s 10 _ _ (le_refl 10) (pulseRow_le s (by omega) c) fun h => absurd h (by decide)

/-- No magnitude of a partition exceeds its pulse count (43_excitation.md R195). -/
theorem shellDecode_le (s : State) {h p : Nat} (hh : h ≤ 4) (hp : p ≤ 16) (c : Cursor) :
    ∀ m ∈ (shellDecode (params s).shellIcdf h p c).1, m ≤ p := by
  induction h generalizing p c with
  | zero => simp [shellDecode]
  | succ h ih =>
    intro m hm
    simp only [shellDecode, List.mem_append] at hm
    have hl : (if p = 0 then (0, c) else sym (shellTable (params s).shellIcdf h p) c).1 ≤ p := by
      split
      · exact Nat.zero_le p
      · exact Nat.le_of_lt_succ (sym_lt (shellTable_wf s (by omega) (by omega) hp) c)
    rcases hm with hm | hm
    · exact (ih (by omega) (by omega) _ m hm).trans hl
    · exact (ih (by omega) (by omega) _ m hm).trans (Nat.sub_le _ _)

theorem drawnMagnitudes_le {s : State} (hcount : ∀ b, b < 20 → rd s.work.pulseCount b 0 ≤ 16) :
    ∀ m ∈ (drawnMagnitudes s).flatten, m ≤ 16 := by
  intro m hm
  obtain ⟨ms, hms, hm⟩ := List.mem_flatten.mp hm
  obtain ⟨b, hb, c, rfl⟩ := exists_of_mem_drawEach hms
  have hb20 : b < 20 := (List.mem_range.mp hb).trans_le (blocks_le s)
  exact (shellDecode_le s (le_refl 4) (hcount b hb20) c m hm).trans (hcount b hb20)

/-- A magnitude with `bits` more bits behind it (43_excitation.md R196). -/
theorem refine_bounds (s : State) (bits : Nat) {m : Int} (hm : 0 ≤ m) (c : Cursor) :
    0 ≤ (refine (params s).lsbIcdf bits m c).1 ∧ (refine (params s).lsbIcdf bits m c).1 < (m + 1) * 2 ^ bits := by
  induction bits generalizing m c with
  | zero => simp [refine, hm]
  | succ bits ih =>
    have hbit := sym_lt (lsbTable_wf s) c
    have hshl : shl m 1 = 2 * m := by simp [shl, mul_comm]
    have h := ih (m := shl m 1 + (sym (params s).lsbIcdf c).1) (by omega) (sym (params s).lsbIcdf c).2
    refine ⟨h.1, h.2.trans_le ?_⟩
    rw [pow_succ', ← mul_assoc]
    exact mul_le_mul_of_nonneg_right (by omega) (by positivity)

theorem refinedMagnitudes_bounds {s : State} (hcount : ∀ b, b < 20 → rd s.work.lsbCount b 0 ≤ 10)
    (hraw : ∀ k, k < 320 → 0 ≤ rdI s.work.eRaw k ∧ rdI s.work.eRaw k ≤ 16) :
    ∀ x ∈ refinedMagnitudes s, 0 ≤ x ∧ x ≤ 17407 := by
  intro x hx
  obtain ⟨i, hi, c, rfl⟩ := exists_of_mem_drawEach hx
  have hi320 : i < 320 := (List.mem_range.mp hi).trans_le (Nat.mul_le_mul_left 16 (blocks_le s))
  obtain ⟨hlo, hhi⟩ := hraw i hi320
  have hbits := hcount (i / 16) (by omega)
  have h := refine_bounds s (rd s.work.lsbCount (i / 16) 0) hlo c
  have hpow : (2 : Int) ^ rd s.work.lsbCount (i / 16) 0 ≤ 2 ^ 10 := pow_le_pow_right₀ (by decide) hbits
  refine ⟨h.1, Int.le_of_lt_add_one (h.2.trans_le ?_)⟩
  calc (rdI s.work.eRaw i + 1) * 2 ^ rd s.work.lsbCount (i / 16) 0
      ≤ 17 * 2 ^ 10 := mul_le_mul (by omega) hpow (by positivity) (by decide)
    _ = 17407 + 1 := by norm_num

/-- A sign turns a value or leaves it (43_excitation.md R197). -/
theorem signed_eq_or (s : State) (i : Nat) (c : Cursor) :
    (signed s i c).1 = rdI s.work.eRaw i ∨ (signed s i c).1 = -rdI s.work.eRaw i := by
  simp only [signed]
  split
  · split
    · exact .inr rfl
    · exact .inl rfl
  · exact .inl rfl

theorem signedValues_bounds {s : State}
    (hraw : ∀ k, k < 320 → -17407 ≤ rdI s.work.eRaw k ∧ rdI s.work.eRaw k ≤ 17407) :
    ∀ x ∈ signedValues s, -17407 ≤ x ∧ x ≤ 17407 := by
  intro x hx
  obtain ⟨i, hi, c, rfl⟩ := exists_of_mem_drawEach hx
  have hi320 : i < 320 := (List.mem_range.mp hi).trans_le (Nat.mul_le_mul_left 16 (blocks_le s))
  have h := hraw i hi320
  rcases signed_eq_or s i c with hs | hs <;> omega

end Sys2Proof.Machine
end

section
/-! PROOFS. The stabilised vector keeps every minimum spacing and so lies in 1..32767, whatever the repairs and the
elements they pass through give (40_lsf.md R110, R111, R114). -/

namespace Sys2Proof.Machine

/-! ### Spacings -/

/-- A vector that exceeds every minimum spacing (40_lsf.md R110). -/
def Spaced (delta n : List Int) : Prop := ∀ i, i ≤ n.length → 0 ≤ gapAt delta n i

/-- The worst gap is at most every gap. -/
theorem worstGap_le (delta n : List Int) {i : Nat} (hi : i ≤ n.length) :
    (worstGap delta n).1 ≤ gapAt delta n i := by
  have hfold : ∀ (is : List Nat) (best : Int × Nat),
      let r := is.foldl (fun best i => if gapAt delta n i < best.1 then (gapAt delta n i, i) else best) best
      r.1 ≤ best.1 ∧ ∀ i ∈ is, r.1 ≤ gapAt delta n i := by
    intro is
    induction is with
    | nil => exact fun best => ⟨le_refl _, by simp⟩
    | cons j is ih =>
      intro best
      obtain ⟨hbest, his⟩ := ih (if gapAt delta n j < best.1 then (gapAt delta n j, j) else best)
      have hj : (if gapAt delta n j < best.1 then (gapAt delta n j, j) else best).1 ≤ min best.1 (gapAt delta n j) := by
        split <;> omega
      refine ⟨hbest.trans (hj.trans (min_le_left _ _)), fun i hi => ?_⟩
      rcases List.mem_cons.mp hi with rfl | hi
      · exact hbest.trans (hj.trans (min_le_right _ _))
      · exact his i hi
  obtain ⟨h0, h⟩ := hfold (List.range' 1 n.length) (gapAt delta n 0, 0)
  by_cases hz : i = 0
  · exact hz ▸ h0
  · exact h i (List.mem_range'_1.mpr (by omega))

theorem spaced_of_worstGap {delta n : List Int} (h : 0 ≤ (worstGap delta n).1) : Spaced delta n :=
  fun _ hi => h.trans (worstGap_le delta n hi)

/-- The checks of the spacings, by index. -/
theorem ndeltaWf_getD {d : Nat} {delta : List Int} (h : ndeltaWf d delta = true) {i : Nat} (hi : i ≤ d) :
    1 ≤ delta.getD i 0 := by
  simp only [ndeltaWf, Bool.and_eq_true, decide_eq_true_eq, List.all_eq_true] at h
  obtain ⟨⟨hl, h1⟩, -⟩ := h
  rw [List.getD_eq_getElem _ _ (by omega)]
  exact h1 _ (List.getElem_mem _)

/-- A spaced vector lies in 1..32767. -/
theorem spaced_bounds {delta n : List Int} (hd : ndeltaWf n.length delta = true) (h : Spaced delta n) :
    ∀ x ∈ n, 1 ≤ x ∧ x ≤ 32767 := by
  have hlo : ∀ i, i < n.length → 1 ≤ n.getD i 0 := by
    intro i
    induction i with
    | zero =>
      intro hi
      have hg := h 0 (by omega)
      have hδ := ndeltaWf_getD hd (Nat.zero_le n.length)
      simp only [gapAt, if_true] at hg
      omega
    | succ i ih =>
      intro hi
      have hg := h (i + 1) (by omega)
      have hδ := ndeltaWf_getD hd (Nat.le_of_lt hi)
      simp only [gapAt, Nat.succ_ne_zero, if_false, if_pos hi, Nat.add_sub_cancel] at hg
      have := ih (by omega)
      omega
  have hhi : ∀ j i, i + 1 + j = n.length → n.getD i 0 ≤ 32767 := by
    intro j
    induction j with
    | zero =>
      intro i hi
      have hg := h n.length (le_refl _)
      have hδ := ndeltaWf_getD hd (le_refl n.length)
      simp only [gapAt, show n.length ≠ 0 by omega, if_false, lt_irrefl,
        show n.length - 1 = i by omega] at hg
      omega
    | succ j ih =>
      intro i hi
      have hg := h (i + 1) (by omega)
      have hδ := ndeltaWf_getD hd (show i + 1 ≤ n.length by omega)
      simp only [gapAt, Nat.succ_ne_zero, if_false, if_pos (show i + 1 < n.length by omega),
        Nat.add_sub_cancel] at hg
      have := ih (i + 1) (by omega)
      omega
  intro x hx
  obtain ⟨i, hi, rfl⟩ := List.mem_iff_getElem.mp hx
  rw [← List.getD_eq_getElem n 0 hi]
  exact ⟨hlo i hi, hhi (n.length - 1 - i) i (by omega)⟩

/-! ### The fallback -/

@[simp] theorem insertSorted_length (x : Int) (xs : List Int) : (insertSorted x xs).length = xs.length + 1 := by
  induction xs with
  | nil => rfl
  | cons y ys ih =>
    rw [insertSorted]
    split <;> simp [ih]

@[simp] theorem sortI_length (xs : List Int) : (sortI xs).length = xs.length := by
  induction xs with
  | nil => rfl
  | cons x xs ih => simp [sortI, ih]

theorem sumI_cons (x : Int) (xs : List Int) : sumI (x :: xs) = x + sumI xs := by
  simp only [sumI, ← List.sum_eq_foldl]
  exact List.sum_cons

theorem raisePass_length {ds xs : List Int} (h : xs.length ≤ ds.length) (y : Int) :
    (raisePass y ds xs).length = xs.length := by
  induction xs generalizing y ds with
  | nil => cases ds <;> rfl
  | cons x xs ih =>
    cases ds with
    | nil => simp at h
    | cons d ds => simp [raisePass, ih (Nat.le_of_succ_le_succ h)]

/-- Every element keeps its spacing to the one above it, the last to 32768. -/
def Falls (ds ys : List Int) : Prop :=
  ∀ i, i < ys.length → ys.getD i 0 + ds.getD i 0 ≤ ys.getD (i + 1) 32768

/-- The falling pass of the fallback on one element more. -/
theorem lowerPass_cons {d x : Int} {ds xs ys : List Int} {y : Int} (h : lowerPass ds xs = y :: ys) :
    lowerPass (d :: ds) (x :: xs) = min x (y - d) :: y :: ys := by
  cases ds with
  | nil => cases xs <;> simp [lowerPass] at h
  | cons e es =>
    rw [lowerPass]
    · rw [h]
    · simp

theorem lowerPass_falls {ds xs : List Int} (hl : ds.length = xs.length) :
    (lowerPass ds xs).length = xs.length ∧ Falls ds (lowerPass ds xs) := by
  induction xs generalizing ds with
  | nil =>
    rw [List.length_eq_zero_iff.mp hl]
    exact ⟨rfl, fun i hi => absurd hi (by simp [lowerPass])⟩
  | cons x xs ih =>
    obtain ⟨d, ds, rfl⟩ := List.exists_cons_of_length_eq_add_one hl
    obtain ⟨hlen, hfalls⟩ := ih (Nat.succ.inj hl)
    cases hlow : lowerPass ds xs with
    | nil =>
      rw [hlow] at hlen
      obtain rfl := List.length_eq_zero_iff.mp hlen.symm
      obtain rfl := List.length_eq_zero_iff.mp (Nat.succ.inj hl)
      refine ⟨rfl, fun i hi => ?_⟩
      obtain rfl : i = 0 := by simpa [lowerPass] using hi
      simp only [lowerPass, List.getD_cons_zero, List.getD_cons_succ, List.getD_nil]
      omega
    | cons y ys =>
      rw [hlow] at hlen hfalls
      rw [lowerPass_cons hlow]
      refine ⟨by simp [← hlen], fun i hi => ?_⟩
      cases i with
      | zero =>
        simp only [List.getD_cons_zero, List.getD_cons_succ]
        omega
      | succ i => exact hfalls i (Nat.lt_of_succ_lt_succ hi)

/-- The falling pass leaves the first element of the risen vector at least at itself or at what the spacings above it
leave of 32768: no element above it was raised beyond what the falling pass can give back. -/
theorem lowerPass_raisePass_head {ds xs : List Int} (hl : ds.length = xs.length + 1) (hd : ∀ d ∈ ds, 1 ≤ d)
    (y : Int) : ∃ z zs, lowerPass ds (y :: raisePass y ds xs) = z :: zs ∧ min y (32768 - sumI ds) ≤ z := by
  induction xs generalizing ds y with
  | nil =>
    obtain ⟨d, rfl⟩ := List.length_eq_one_iff.mp hl
    exact ⟨_, [], rfl, by simp [sumI]⟩
  | cons x xs ih =>
    obtain ⟨d, ds, rfl⟩ := List.exists_cons_of_length_eq_add_one hl
    obtain ⟨z, zs, hz, hle⟩ := ih (Nat.succ.inj hl) (fun e he => hd e (List.mem_cons_of_mem _ he))
      (max x (min (y + d) 32767))
    have hsum : 1 ≤ sumI ds := by
      obtain ⟨e, es, rfl⟩ := List.exists_cons_of_length_eq_add_one (Nat.succ.inj hl)
      have he := hd e (by simp)
      have hes : 0 ≤ es.sum := List.sum_nonneg fun a ha => by
        have := hd a (by simp [ha])
        omega
      rw [sumI_cons, sumI, ← List.sum_eq_foldl]
      omega
    refine ⟨_, _, lowerPass_cons hz, ?_⟩
    rw [sumI_cons]
    omega

theorem spaced_of_falls {d0 : Int} {ds n : List Int} (h0 : d0 ≤ n.getD 0 0) (h : Falls ds n) :
    Spaced (d0 :: ds) n := by
  intro i hi
  cases i with
  | zero =>
    simp only [gapAt, if_true, List.getD_cons_zero]
    omega
  | succ i =>
    have hf := h i hi
    simp only [gapAt, Nat.succ_ne_zero, if_false, Nat.add_sub_cancel, List.getD_cons_succ]
    split
    · next hlt =>
      rw [List.getD_eq_getElem n 32768 hlt, ← List.getD_eq_getElem n 0 hlt] at hf
      omega
    · next hge =>
      obtain hlen : n.length = i + 1 := by omega
      rw [List.getD_eq_default n 32768 (by omega)] at hf
      simp only [hlen, Nat.add_sub_cancel, List.getD_cons_succ]
      omega

/-- FALLBACK gives a spaced vector (40_lsf.md R111, R114). -/
theorem fallback_spaced {delta n : List Int} (hδ : ndeltaWf n.length delta = true) (hn : n ≠ []) :
    (fallback delta n).length = n.length ∧ Spaced delta (fallback delta n) := by
  simp only [ndeltaWf, Bool.and_eq_true, decide_eq_true_eq, List.all_eq_true] at hδ
  obtain ⟨⟨hl, h1⟩, hsum⟩ := hδ
  obtain ⟨d0, ds, rfl⟩ := List.exists_cons_of_length_eq_add_one hl
  obtain ⟨x, xs, hx⟩ : ∃ x xs, sortI n = x :: xs :=
    List.exists_cons_of_ne_nil fun h => hn (List.length_eq_zero_iff.mp (by rw [← sortI_length, h]; rfl))
  have hxs : xs.length + 1 = n.length := by rw [← sortI_length n, hx, List.length_cons]
  have hds : ds.length = xs.length + 1 := hxs ▸ Nat.succ.inj hl
  obtain ⟨z, zs, hz, hle⟩ := lowerPass_raisePass_head hds (fun d hd => h1 d (List.mem_cons_of_mem _ hd)) (max x d0)
  have hraise := raisePass_length (ds := ds) (xs := xs) (by omega) (max x d0)
  obtain ⟨hlen, hfalls⟩ := lowerPass_falls (ds := ds) (xs := max x d0 :: raisePass (max x d0) ds xs)
    (by simp [hraise, hds])
  have hfb : fallback (d0 :: ds) n = z :: zs := by simp only [fallback, hx, hz]
  rw [hz] at hlen hfalls
  rw [hfb]
  simp only [List.length_cons, hraise] at hlen
  rw [sumI_cons] at hsum
  exact ⟨by simp [hlen, hxs], spaced_of_falls (by rw [List.getD_cons_zero]; omega) hfalls⟩

theorem repairGap_length (delta n : List Int) (i : Nat) : (repairGap delta n i).length = n.length := by
  simp only [repairGap]
  split
  · simp
  · split <;> simp

/-- LSF_STAB gives a spaced vector of the same length, for every input and every value an element may hold
(40_lsf.md R110, R114). -/
theorem stabPasses_spaced (u left : Nat) {delta n : List Int} (hδ : ndeltaWf n.length delta = true) (hn : n ≠ []) :
    (stabPasses u delta left n).length = n.length ∧ Spaced delta (stabPasses u delta left n) := by
  induction left generalizing n with
  | zero => exact fallback_spaced hδ hn
  | succ left ih =>
    simp only [stabPasses]
    split
    · next h => exact ⟨rfl, spaced_of_worstGap h⟩
    · have hlen : ((repairGap delta n (worstGap delta n).2).map (held u 16)).length = n.length := by
        rw [List.length_map, repairGap_length]
      have h := ih (n := (repairGap delta n (worstGap delta n).2).map (held u 16)) (hlen ▸ hδ)
        (List.ne_nil_of_length_pos (hlen ▸ List.length_pos_iff.mpr hn))
      exact ⟨h.1.trans hlen, h.2⟩

/-- What LSF_STAB leaves is spaced (40_lsf.md R114). -/
theorem stabilisedNlsf_spaced (s : State) : (stabilisedNlsf s).length = order s ∧
    Spaced (book s).ndeltaMinQ15 (stabilisedNlsf s) := by
  have h := stabPasses_spaced s.fresh 20 (delta := (book s).ndeltaMinQ15) (n := firstI s.work.nlsf2 (order s))
    (by simpa using spacings_wf s) (List.ne_nil_of_length_pos (by simpa using order_pos s))
  rwa [firstI_length] at h

theorem stabilisedNlsf_bounds (s : State) : ∀ x ∈ stabilisedNlsf s, 1 ≤ x ∧ x ≤ 32767 := by
  obtain ⟨hlen, hspaced⟩ := stabilisedNlsf_spaced s
  exact spaced_bounds (hlen ▸ spacings_wf s) hspaced

end Sys2Proof.Machine
end

section
/-! PROOFS. The ranges of what the LSF and pitch commands store (10_state.md R37, R39). -/

namespace Sys2Proof.Machine

/-- A residual index with its extension (40_lsf.md R105, R106). -/
theorem residualIndex_bounds {ext tab : Icdf} (hext : icdfWf 7 ext = true) (htab : icdfWf 9 tab = true)
    (c : Cursor) : -10 ≤ (residualIndex ext tab c).1 ∧ (residualIndex ext tab c).1 ≤ 10 := by
  have hbase := sym_lt htab c
  have he := sym_lt hext (sym tab c).2
  simp only [residualIndex]
  split
  · dsimp only
    omega
  · split <;> dsimp only <;> omega

theorem drawnIndices_bounds {s : State} (hi : s.work.i1.toNat < (params s).nCb1) :
    ∀ x ∈ drawnIndices s, -10 ≤ x ∧ x ≤ 10 := by
  intro x hx
  obtain ⟨k, hk, c, rfl⟩ := exists_of_mem_drawEach hx
  obtain ⟨-, -, -, hext, -⟩ := params_wf s
  exact residualIndex_bounds hext (stage2Table_wf s hi (List.mem_range.mp hk)) c

theorem frameRawNlsf_bounds (s : State) : ∀ x ∈ frameRawNlsf s, 0 ≤ x ∧ x ≤ 32767 := by
  intro x hx
  obtain ⟨k, -, rfl⟩ := List.mem_map.mp hx
  exact clampI_bounds _ (by decide)

/-- The factor of LSF_INTERP is at most W_MAX (40_lsf.md R112). -/
theorem interpFactor_le (s : State) : (interpFactor s).1 ≤ (params s).wMax := by
  obtain ⟨-, -, -, -, hicdf, -⟩ := params_wf s
  simp only [interpFactor]
  split
  · exact le_refl _
  · exact Nat.le_of_lt_succ (sym_lt hicdf s.cursor)

/-- A blend with a factor of at most 4 lies between its ends (40_lsf.md R112). -/
theorem blend_bounds {w : Nat} {n0 n2 : Int} (hw : w ≤ 4) (h0 : 0 ≤ n0 ∧ n0 ≤ 32767) (h2 : 0 ≤ n2 ∧ n2 ≤ 32767) :
    0 ≤ blend w n0 n2 ∧ blend w n0 n2 ≤ 32767 := by
  simp only [blend, asr]
  interval_cases w <;> omega

theorem rdI_le {m : Nat} (v : Vector (BitVec 16) m) (k : Nat) : rdI v k ≤ 32767 := by
  have h := BitVec.toInt_lt (x := rd v k 0)
  rw [rdI]
  omega

theorem blended_bounds {s : State} (hmax : (params s).wMax ≤ 4)
    (hn : ∀ k, k < 16 → 0 ≤ rdI s.work.nlsf2 k ∧ 0 ≤ rdI s.dec.prevNlsf k) :
    ∀ x ∈ blended s (interpFactor s).1 (interpolates s), 0 ≤ x ∧ x ≤ 32767 := by
  intro x hx
  obtain ⟨k, hk, rfl⟩ := List.mem_map.mp hx
  have hk16 : k < 16 := (List.mem_range.mp hk).trans_le (order_le s)
  obtain ⟨h2, h0⟩ := hn k hk16
  split
  · exact blend_bounds ((interpFactor_le s).trans hmax) ⟨h0, rdI_le _ _⟩ ⟨h2, rdI_le _ _⟩
  · exact ⟨h2, rdI_le _ _⟩

theorem drawnOffsets_length (s : State) : (drawnOffsets s).length = 4 := by
  simp only [drawnOffsets, lagOffsets]
  split <;> simp

/-- The subframe lags are clamped to the range of the bandwidth (42_ltp.md R171). -/
theorem subframeLags_bounds (bw : Bandwidth) (lag : Int) (offsets : List Int) :
    ∀ x ∈ subframeLags bw lag offsets, (lagMin bw : Int) ≤ x ∧ x ≤ lagMax bw := by
  intro x hx
  obtain ⟨o, -, rfl⟩ := List.mem_map.mp hx
  exact clampI_bounds _ (by cases bw <;> decide)

end Sys2Proof.Machine
end

section
/-! PROOFS. The invariant of the open frame: every effect of a command, and so every step, keeps PHASE ordered and the
elements in their ranges. -/

namespace Sys2Proof.Machine

/-! ### What a stage does to the ranges -/

theorem fits16 {x : Int} (h : -32768 ≤ x) (h' : x ≤ 32767) : Fits 16 x := by
  constructor <;> norm_num <;> omega

/-- A vector of NLSF elements stays not negative where what is stored lies in 0..32767. -/
theorem storeFirst_nonneg {n : Nat} {v : Vector (BitVec 16) 16} {xs : List Int} {k : Nat} (hk : k < 16)
    (hxs : ∀ x ∈ xs, 0 ≤ x ∧ x ≤ 32767) (hv : 0 ≤ rdI v k) : 0 ≤ rdI (storeFirst n v xs) k :=
  rdI_storeFirst_induct (P := fun x => 0 ≤ x) (by decide) hk
    (fun x hx => ⟨fits16 (by have := hxs x hx; omega) (hxs x hx).2, (hxs x hx).1⟩) hv

theorem stage_i1 (b : PhaseBit) {s : State} (h : s.work.i1.toNat < (params s).nCb1) :
    (stageEffect b s).work.i1.toNat < (params s).nCb1 := by
  by_cases hb : b = .s1
  · subst hb
    have hlt := sym_lt (stage1Table_wf s) s.cursor
    obtain ⟨hmax, -⟩ := params_wf s
    rw [stageEffect, lsfS1_work, storeU_toNat s.fresh (by omega)]
    exact hlt
  · rwa [(stageEffect_writes b s).i1 hb]

theorem stage_i2 (b : PhaseBit) {s : State} (hi : s.work.i1.toNat < (params s).nCb1) {k : Nat} (hk : k < 16)
    (h : -10 ≤ rdI s.work.i2 k ∧ rdI s.work.i2 k ≤ 10) :
    -10 ≤ rdI (stageEffect b s).work.i2 k ∧ rdI (stageEffect b s).work.i2 k ≤ 10 := by
  by_cases hb : b = .s2
  · subst hb
    rw [stageEffect, lsfS2_work]
    refine rdI_storeFirst_induct (P := fun x => -10 ≤ x ∧ x ≤ 10) (by decide) hk (fun x hx => ?_) h
    have hx := drawnIndices_bounds hi x hx
    exact ⟨by constructor <;> norm_num <;> omega, hx⟩
  · rwa [(stageEffect_writes b s).i2 hb]

theorem stage_wQ2 (b : PhaseBit) {s : State} (h : s.work.wQ2.toNat ≤ (params s).wMax) :
    (stageEffect b s).work.wQ2.toNat ≤ (params s).wMax := by
  by_cases hb : b = .interp
  · subst hb
    have hle := interpFactor_le s
    obtain ⟨-, -, -, -, -, hmax, -⟩ := params_wf s
    rw [stageEffect, lsfInterp_work, storeU_toNat s.fresh (by omega)]
    exact hle
  · rwa [(stageEffect_writes b s).wQ2 hb]

theorem stage_nlsf2 (b : PhaseBit) {s : State} {k : Nat} (hk : k < 16) (h : 0 ≤ rdI s.work.nlsf2 k) :
    0 ≤ rdI (stageEffect b s).work.nlsf2 k := by
  by_cases hrecon : b = .recon
  · subst hrecon
    rw [stageEffect, lsfRecon_work]
    exact storeFirst_nonneg hk (frameRawNlsf_bounds s) h
  by_cases hstab : b = .stab
  · subst hstab
    rw [stageEffect, lsfStab_work]
    exact storeFirst_nonneg hk (fun x hx => by have := stabilisedNlsf_bounds s x hx; omega) h
  rwa [(stageEffect_writes b s).nlsf2 hrecon hstab]

theorem stage_nlsf1 (b : PhaseBit) {s : State} (hmax : (params s).wMax ≤ 4)
    (hn : ∀ k, k < 16 → 0 ≤ rdI s.work.nlsf2 k ∧ 0 ≤ rdI s.dec.prevNlsf k) {k : Nat} (hk : k < 16)
    (h : 0 ≤ rdI s.work.nlsf1 k) : 0 ≤ rdI (stageEffect b s).work.nlsf1 k := by
  by_cases hb : b = .interp
  · subst hb
    rw [stageEffect, lsfInterp_work]
    exact storeFirst_nonneg hk (blended_bounds hmax hn) h
  · rwa [(stageEffect_writes b s).nlsf1 hb]

theorem stage_lsfInRange (b : PhaseBit) {s : State} (h : LsfInRange s) : LsfInRange (stageEffect b s) := by
  obtain ⟨hi1, hi2, hw, hn, hn1⟩ := h
  rw [LsfInRange, stageEffect_tables, stageEffect_dec]
  exact ⟨stage_i1 b hi1, fun k hk => stage_i2 b hi1 hk (hi2 k hk), stage_wQ2 b hw,
    fun k hk => ⟨stage_nlsf2 b hk (hn k hk).1, (hn k hk).2⟩,
    fun hmax k hk => stage_nlsf1 b hmax hn hk (hn1 hmax k hk)⟩

theorem stage_seed (b : PhaseBit) {s : State} (h : s.work.seed < 4) : (stageEffect b s).work.seed < 4 := by
  by_cases hb : b = .seed
  · subst hb
    exact sym_lt (seedTable_wf s) s.cursor
  · rwa [(stageEffect_writes b s).seed hb]

theorem stage_rateLevel (b : PhaseBit) {s : State} (h : s.work.rateLevel < 9) :
    (stageEffect b s).work.rateLevel < 9 := by
  by_cases hb : b = .rate
  · subst hb
    exact sym_lt (rateTable_wf s) s.cursor
  · rwa [(stageEffect_writes b s).rateLevel hb]

theorem stage_ltpPer (b : PhaseBit) {s : State} (h : s.work.ltpPer < 3) : (stageEffect b s).work.ltpPer < 3 := by
  by_cases hb : b = .ltpc
  · subst hb
    exact sym_lt (levelTable_wf s) s.cursor
  · rwa [(stageEffect_writes b s).ltpPer hb]

theorem stage_counts (b : PhaseBit) {s : State} (hrate : s.work.rateLevel < 9) {k : Nat} (hk : k < 20)
    (h : rd s.work.pulseCount k 0 ≤ 16 ∧ rd s.work.lsbCount k 0 ≤ 10) :
    rd (stageEffect b s).work.pulseCount k 0 ≤ 16 ∧ rd (stageEffect b s).work.lsbCount k 0 ≤ 10 := by
  by_cases hb : b = .counts
  · subst hb
    have hle := drawnCounts_le hrate
    rw [stageEffect, excCounts_work]
    constructor
    · refine rd_putFirst_induct (P := fun n => n ≤ 16) hk (fun n hn => ?_) h.1
      obtain ⟨p, hp, rfl⟩ := List.mem_map.mp hn
      exact (hle p hp).1
    · refine rd_putFirst_induct (P := fun n => n ≤ 10) hk (fun n hn => ?_) h.2
      obtain ⟨p, hp, rfl⟩ := List.mem_map.mp hn
      exact (hle p hp).2
  · rwa [(stageEffect_writes b s).pulseCount hb, (stageEffect_writes b s).lsbCount hb]

/-- PITCH_LAGS replaces all four lags by valid ones (42_ltp.md R171). -/
theorem pitchLags_valid (s : State) {k : Nat} (hk : k < 4) :
    (lagMin s.frame.bw : Int) ≤ rdI (pitchLags s).work.pitchLag k ∧
      rdI (pitchLags s).work.pitchLag k ≤ lagMax s.frame.bw := by
  have hlen : (subframeLags s.frame.bw (drawnLag s).toInt (drawnOffsets s)).length = 4 := by
    rw [subframeLags, List.length_map, drawnOffsets_length]
  have hmem := List.getElem_mem (hlen ▸ hk)
  have hbounds := subframeLags_bounds s.frame.bw (drawnLag s).toInt (drawnOffsets s) _ hmem
  have hmax : lagMax s.frame.bw ≤ 288 := by cases s.frame.bw <;> decide
  rw [← List.getD_eq_getElem _ 0] at hbounds
  obtain ⟨hlo, hhi⟩ : Fits 16 ((subframeLags s.frame.bw (drawnLag s).toInt (drawnOffsets s)).getD k 0) :=
    fits16 (by omega) (by omega)
  rw [pitchLags_pitchLag, rdI_storeFirst _ _ _ _ (le_of_eq hlen) (hlen ▸ hk) (by decide) hlo hhi]
  exact hbounds

theorem stage_lags {b : PhaseBit} {s : State} (h : phaseHas s .pitch = true → ∀ k, k < 4 →
      (lagMin s.frame.bw : Int) ≤ rdI s.work.pitchLag k ∧ rdI s.work.pitchLag k ≤ lagMax s.frame.bw)
    (hp : phaseHas (stageEffect b s) .pitch = true) {k : Nat} (hk : k < 4) :
    (lagMin s.frame.bw : Int) ≤ rdI (stageEffect b s).work.pitchLag k ∧
      rdI (stageEffect b s).work.pitchLag k ≤ lagMax s.frame.bw := by
  by_cases hb : b = .pitch
  · subst hb
    exact pitchLags_valid s hk
  · rw [(stageEffect_writes b s).pitchLag hb]
    simp only [phaseHas_stageEffect, Bool.or_eq_true, decide_eq_true_eq] at hp
    exact h (hp.resolve_right (Ne.symm hb)) k hk

/-! ### The excitation -/

theorem fits_raw {x : Int} (h : -17407 ≤ x) (h' : x ≤ 17407) : Fits 32 x := by
  constructor <;> norm_num <;> omega

theorem excShell_raw {s : State} (hcount : ∀ b, b < 20 → rd s.work.pulseCount b 0 ≤ 16) {k : Nat} (hk : k < 320)
    (h : rdI s.work.eRaw k = 0) : 0 ≤ rdI (excShell s).work.eRaw k ∧ rdI (excShell s).work.eRaw k ≤ 16 := by
  rw [excShell_work]
  refine rdI_storeFirst_induct (P := fun x => 0 ≤ x ∧ x ≤ 16) (by decide) hk (fun x hx => ?_) (by omega)
  obtain ⟨m, hm, rfl⟩ := List.mem_map.mp hx
  have hle := drawnMagnitudes_le hcount m hm
  exact ⟨fits_raw (by omega) (by omega), by omega, by omega⟩

theorem excLsb_raw {s : State} (hcount : ∀ b, b < 20 → rd s.work.lsbCount b 0 ≤ 10)
    (h : ∀ k, k < 320 → 0 ≤ rdI s.work.eRaw k ∧ rdI s.work.eRaw k ≤ 16) {k : Nat} (hk : k < 320) :
    0 ≤ rdI (excLsb s).work.eRaw k ∧ rdI (excLsb s).work.eRaw k ≤ 17407 := by
  rw [excLsb_work]
  refine rdI_storeFirst_induct (P := fun x => 0 ≤ x ∧ x ≤ 17407) (by decide) hk (fun x hx => ?_)
    ⟨(h k hk).1, by have := (h k hk).2; omega⟩
  have hb := refinedMagnitudes_bounds hcount h x hx
  exact ⟨fits_raw (by omega) hb.2, hb⟩

theorem excSigns_raw {s : State} (h : ∀ k, k < 320 → -17407 ≤ rdI s.work.eRaw k ∧ rdI s.work.eRaw k ≤ 17407)
    {k : Nat} (hk : k < 320) : -17407 ≤ rdI (excSigns s).work.eRaw k ∧ rdI (excSigns s).work.eRaw k ≤ 17407 := by
  rw [excSigns_work]
  refine rdI_storeFirst_induct (P := fun x => -17407 ≤ x ∧ x ≤ 17407) (by decide) hk (fun x hx => ?_) (h k hk)
  have hb := signedValues_bounds h x hx
  exact ⟨fits_raw hb.1 hb.2, hb⟩

theorem stage_rawInRange {b : PhaseBit} {s : State} (hord : PhaseOrdered s) (hrun : MayRun b s)
    (hcount : ∀ b, b < 20 → rd s.work.pulseCount b 0 ≤ 16 ∧ rd s.work.lsbCount b 0 ≤ 10)
    (h : RawInRange s) : RawInRange (stageEffect b s) := by
  obtain ⟨hf, hreq, hnew⟩ := hrun
  have hreqs := (phaseOrdered_iff s).mp hord
  intro k hk
  by_cases hshell : b = .shell
  · subst hshell
    have hraw : 0 ≤ rdI (stageEffect .shell s).work.eRaw k ∧ rdI (stageEffect .shell s).work.eRaw k ≤ 16 :=
      excShell_raw (fun b hb => (hcount b hb).1) hk ((h k hk).1 (f_of_counts hord hreq) hnew)
    refine ⟨fun _ hs => ?_, fun _ _ => hraw, fun _ _ => hraw.1, by omega, by omega⟩
    simp at hs
  by_cases hlsb : b = .lsb
  · subst hlsb
    have hopen := f_of_counts hord (hreqs .shell hreq)
    have hraw : 0 ≤ rdI (stageEffect .lsb s).work.eRaw k ∧ rdI (stageEffect .lsb s).work.eRaw k ≤ 17407 :=
      excLsb_raw (fun b hb => (hcount b hb).2) (fun k hk => (h k hk).2.1 hopen hnew) hk
    refine ⟨fun _ hs => ?_, fun _ hs => ?_, fun _ _ => hraw.1, by omega, hraw.2⟩
    · simp [show phaseHas s .shell = true from hreq] at hs
    · simp at hs
  by_cases hsigns : b = .signs
  · subst hsigns
    have hraw := excSigns_raw (fun k hk => (h k hk).2.2.2) hk
    refine ⟨fun _ hs => ?_, fun _ hs => ?_, fun _ hs => ?_, hraw⟩
    · simp [show phaseHas s .shell = true from hreqs .lsb hreq] at hs
    · simp [show phaseHas s .lsb = true from hreq] at hs
    · simp at hs
  · rw [(stageEffect_writes b s).eRaw hshell hlsb hsigns]
    simp only [phaseHas_stageEffect, Ne.symm hf, Ne.symm hshell, Ne.symm hlsb, Ne.symm hsigns, decide_false,
      Bool.or_false]
    exact h k hk

/-! ### The invariant -/

theorem stage_inRange {b : PhaseBit} {s : State} (hord : PhaseOrdered s) (hrun : MayRun b s) (h : InRange s) :
    InRange (stageEffect b s) := by
  obtain ⟨hlsf, hseed, hrate, hper, hcounts, hgains, hlags, hraw⟩ := h
  refine ⟨stage_lsfInRange b hlsf, stage_seed b hseed, stage_rateLevel b hrate, stage_ltpPer b hper,
    fun k hk => stage_counts b hrate hk (hcounts k hk), ?_, ?_, stage_rawInRange hord hrun hcounts hraw⟩
  · rw [stageEffect_frame, phaseHas_stageEffect, decide_eq_false (Ne.symm hrun.1), Bool.or_false]
    exact hgains
  · rw [stageEffect_frame]
    exact fun hp k hk => stage_lags hlags hp hk

/-- With no frame open only the elements that a frame leaves behind have ranges. -/
theorem frameInv_of_phase_zero {s : State} (hphase : s.phase = 0) (hlsf : LsfInRange s) (hseed : s.work.seed < 4)
    (hrate : s.work.rateLevel < 9) (hper : s.work.ltpPer < 3)
    (hcounts : ∀ b, b < 20 → rd s.work.pulseCount b 0 ≤ 16 ∧ rd s.work.lsbCount b 0 ≤ 10)
    (hraw : ∀ k, k < 320 → -17407 ≤ rdI s.work.eRaw k ∧ rdI s.work.eRaw k ≤ 17407) : FrameInv s := by
  have hnone : ∀ {c : PhaseBit} {p : Prop}, phaseHas s c = true → p := fun {c} {p} h => by
    simp [phaseHas_of_phase_zero hphase] at h
  exact ⟨phaseOrdered_of_phase_zero hphase,
    ⟨hlsf, hseed, hrate, hper, hcounts, hnone, hnone,
      fun k hk => ⟨hnone, hnone, hnone, hraw k hk⟩⟩, hnone⟩

/-- The reset values of the working state lie in their ranges, with every record. -/
theorem lsfInRange_of_work_reset {s : State} (hw : s.work = Work.reset)
    (hprev : ∀ k, k < 16 → 0 ≤ rdI s.dec.prevNlsf k) : LsfInRange s := by
  have hpos : 0 < s.tables.val.nCb1 := nCb1_pos s
  rw [LsfInRange, hw]
  refine ⟨hpos, fun k _ => ?_, Nat.zero_le _, fun k hk => ⟨?_, hprev k hk⟩, fun _ k _ => ?_⟩ <;>
    simp [Work.reset, rdI]

theorem rdI_eRaw_reset (k : Nat) : rdI Work.reset.eRaw k = 0 := by
  simp [Work.reset, rdI]

theorem counts_reset (b : Nat) : rd Work.reset.pulseCount b 0 ≤ 16 ∧ rd Work.reset.lsbCount b 0 ≤ 10 := by
  simp [Work.reset]

theorem rdI_prevNlsf_reset (k : Nat) : rdI Decoder.reset.prevNlsf k = 0 := by
  simp [Decoder.reset, rdI]

/-- Every reset gives the invariant (10_state.md R45). -/
theorem frameInv_of_reset {s : State} (hphase : s.phase = 0) (hw : s.work = Work.reset)
    (hd : s.dec = Decoder.reset) : FrameInv s := by
  have hlsf := lsfInRange_of_work_reset hw fun k _ => by rw [hd, rdI_prevNlsf_reset]
  apply frameInv_of_phase_zero hphase hlsf <;> rw [hw]
  · decide
  · decide
  · decide
  · exact fun b _ => counts_reset b
  · exact fun k _ => by simp [rdI_eRaw_reset]

/-- The gains of an accepted frame are positive (60_exceptions.md R306). -/
theorem gainsPositive_of_accept {s : State} {bw : Bandwidth} {sig : SigType} (h : checkFrame s = .accept bw sig) :
    gainsPositive s = true := by
  simp only [checkFrame] at h
  split at h; · cases h
  split at h; · cases h
  split at h; · cases h
  split at h; · cases h
  split at h; · cases h
  split at h; · cases h
  split at h
  · assumption
  · cases h

theorem frameBegin_frameInv {s : State} {bw : Bandwidth} {sig : SigType} (h : checkFrame s = .accept bw sig)
    (hs : FrameInv s) : FrameInv (frameBegin bw sig s) := by
  obtain ⟨hord, ⟨⟨-, -, -, hn, -⟩, -⟩, -⟩ := hs
  have hprev : ∀ k, k < 16 → 0 ≤ rdI (reinit bw s.dec).prevNlsf k := by
    intro k hk
    simp only [reinit]
    split
    · exact le_of_eq (rdI_prevNlsf_reset k).symm
    · exact (hn k hk).2
  have hgain : ∀ k, k < 4 → 0 < rdI s.gainIn k := by
    intro k hk
    have hall := gainsPositive_of_accept h
    simp only [gainsPositive, List.all_eq_true, decide_eq_true_eq] at hall
    rw [rdI, rd_eq_getElem _ _ _ hk]
    exact hall _ (by simp)
  refine ⟨action_keeps_phaseOrdered (.begin h) hord, ⟨lsfInRange_of_work_reset rfl hprev, ?_, ?_, ?_,
    fun b _ => counts_reset b, fun _ => hgain, fun hp => ?_, fun k _ => ?_⟩, fun _ => rfl⟩
  · rw [frameBegin_work]
    decide
  · rw [frameBegin_work]
    decide
  · rw [frameBegin_work]
    decide
  · simp at hp
  · simp [rdI_eRaw_reset]

theorem frameEnd_frameInv {s : State} (hs : FrameInv s) : FrameInv (frameEnd s) := by
  obtain ⟨-, ⟨⟨hi1, hi2, hw, hn, hn1⟩, hseed, hrate, hper, hcounts, -, -, hraw⟩, -⟩ := hs
  refine frameInv_of_phase_zero (frameEnd_phase s) ⟨hi1, hi2, hw, fun k hk => ⟨(hn k hk).1, ?_⟩, hn1⟩ hseed hrate
    hper hcounts fun k hk => (hraw k hk).2.2.2
  have hprev : rd (frameEnd s).dec.prevNlsf k 0 = if k < order s then rd s.work.nlsf2 k 0 else 0 := by
    simp only [frameEnd, rd_build, if_pos hk]
  rw [rdI, hprev]
  split
  · exact (hn k hk).1
  · simp

theorem action_keeps_frameInv {s t : State} (h : Action s t) (hs : FrameInv s) : FrameInv t := by
  cases h with
  | stage b hrun =>
    obtain ⟨hord, hrange, hfirst⟩ := hs
    refine ⟨action_keeps_phaseOrdered (.stage b hrun) hord, stage_inRange hord hrun hrange, ?_⟩
    rw [stageEffect_frame, stageEffect_dec, phaseHas_stageEffect, decide_eq_false (Ne.symm hrun.1), Bool.or_false]
    exact hfirst
  | begin hc => exact frameBegin_frameInv hc hs
  | close _ => exact frameEnd_frameInv hs
  | clear => exact frameInv_of_reset rfl rfl rfl

theorem served_frameInv {s t : State} (h : Served s t) (hs : FrameInv s) : FrameInv t := by
  cases h with
  | reset => exact frameInv_of_reset rfl rfl rfl
  | command h =>
    have hu := reaches_keeps (fun _ _ => action_keeps_frameInv) hs h
    exact hu
  | _ => exact hs

end Sys2Proof.Machine
end

section
/-! PROOFS. The statements of 10_state.md, settled. -/

open Sys2Proof Sys2Proof.Machine

/-- Settles O56, at the reset values. -/
theorem reservedBitsAreZeroAtReset : Obligations.ReservedBitsAreZeroAtReset := reservedZero_reset

/-- Settles O57: every access keeps the reserved bits, a command because each of its effects does. -/
theorem stepsKeepReservedBitsZero : Obligations.StepsKeepReservedBitsZero := by
  intro s t hs h
  obtain ⟨rest, hserved⟩ := step_served h
  exact served_reservedZero hserved hs

/-- Settles O11, register by register. -/
theorem registerWritesActOnTheirFields : Obligations.RegisterWritesActOnTheirFields := by
  intro s rest v
  refine ⟨fun h h0 => ?_, fun h => ?_, fun h => step_writeLoc h rfl locate_cfg,
    fun h => step_writeLoc h rfl locate_durationNs, fun h => step_writeLoc h rfl locate_outCap,
    fun h => step_writeLoc h rfl locate_frameInfo, fun k hk h => ?_⟩
  · rw [step_writeLoc h rfl locate_ctrl]
    simp only [writeLoc, writeCtrl, h0, Bool.false_eq_true, if_false]
  · rw [step_writeLoc h rfl locate_status]
    simp only [writeLoc, clearStatus]
    cases v.getLsbD 1 <;> cases v.getLsbD 2 <;> simp
  · have ha : (BitVec.ofNat 14 (0x020 + 4 * k)).toNat = 0x020 + 4 * k := by
      rw [BitVec.toNat_ofNat]
      omega
    rw [step_writeLoc h (by omega) (ha ▸ locate_gainIn k hk), writeLoc, put_eq_set _ _ hk]

/-- Settles O12, each field as a digit of the word's value. -/
theorem statusReadsItsFields : Obligations.StatusReadsItsFields := by
  intro s w
  have hval : w.toNat = _ := statusWord_toNat s
  have hd := s.done.toNat_lt
  have he := s.err.toNat_lt
  have hc := s.errCode.isLt
  have hh := s.dec.haveDecoded.toNat_lt
  have hf := (phaseHas s .f).toNat_lt
  have hb := bwCode_le s.dec.prevBw
  refine ⟨getLsbD_of_div_mod ?_, getLsbD_of_div_mod ?_, getLsbD_of_div_mod ?_, BitVec.eq_of_toNat_eq ?_,
    BitVec.eq_of_toNat_eq ?_, BitVec.eq_of_toNat_eq ?_, getLsbD_of_div_mod ?_,
    getLsbD_of_div_mod (b := phaseHas s .f) ?_, ?_, BitVec.eq_of_toNat_eq ?_⟩ <;>
    simp only [toNat_extractLsb'_div, hval, Bool.toNat_false, BitVec.ofNat_eq_ofNat, BitVec.toNat_ofNat] <;> omega

/-- Settles O14, element by element. -/
theorem resetStateHoldsResetValues : Obligations.ResetStateHoldsResetValues :=
  ⟨rfl, rfl, rfl, rfl, rfl, rfl, rfl, allAre_replicate _ _, rfl, decoderCleared_reset, rfl, latchedCleared_reset,
    workCleared_reset⟩

/-- Settles O54, command by command. -/
theorem openFramesIgnoreArgumentWrites : Obligations.OpenFramesIgnoreArgumentWrites :=
  fun _ s cfg dur cap info gains hb hd => exec_ignoresArguments cfg dur cap info gains s hb hd

/-- Settles O58, as every reset does. -/
theorem frameInvariantHoldsAtReset : Obligations.FrameInvariantHoldsAtReset := frameInv_of_reset rfl rfl rfl

/-- Settles O60: every access keeps the invariant, a command because each of its effects does. -/
theorem stepsKeepElementsInRange : Obligations.StepsKeepElementsInRange := by
  intro s t hs h
  obtain ⟨rest, hserved⟩ := step_served h
  exact served_frameInv hserved hs

end

section
/-! PROOFS. The register space: where the rows of the address map lie, what the words of a row read as, which words a
write leaves alone, and which accesses a step refuses. -/

namespace Sys2Proof.Machine

/-! ### The address map -/

/-- The rows of the map lie in rising order and do not overlap (20_memory.md R61). -/
theorem addressMap_ordered : addressMap.Pairwise fun r r' => r.base + 4 * r.count ≤ r'.base := by decide

/-- Word `k` of a row is at its base and 4 bytes a word from there. -/
theorem locate_row {base count k : Nat} {loc : Nat → Loc} (hr : ⟨base, count, loc⟩ ∈ addressMap)
    (hk : k < count) : locate (base + 4 * k) = some (loc k) := by
  obtain ⟨before, after, hsplit⟩ := List.append_of_mem hr
  have hfind : addressMap.find? (fun r => decide (r.base ≤ base + 4 * k) &&
      decide (base + 4 * k < r.base + 4 * r.count)) = some ⟨base, count, loc⟩ := by
    refine List.find?_eq_some_iff_append.mpr ⟨by simp [hk], before, after, hsplit, fun r hmem => ?_⟩
    obtain ⟨-, -, hordered⟩ := List.pairwise_append.mp (hsplit ▸ addressMap_ordered)
    have hbefore : r.base + 4 * r.count ≤ base := hordered r hmem _ List.mem_cons_self
    simp only [Bool.not_eq_true', Bool.and_eq_false_imp, decide_eq_true_eq, decide_eq_false_iff_not]
    omega
  rw [locate, hfind, Option.map_some, Nat.add_sub_cancel_left, Nat.mul_div_cancel_left k (by decide)]

/-- A mapped address lies in a row of the map and is the word of that row. -/
theorem mem_row_of_locate {a : Nat} {loc : Loc} (h : locate a = some loc) :
    ∃ r ∈ addressMap, r.base ≤ a ∧ a < r.base + 4 * r.count ∧ loc = r.loc ((a - r.base) / 4) := by
  obtain ⟨r, hfind, rfl⟩ := Option.map_eq_some_iff.mp h
  obtain ⟨hlo, hhi⟩ : r.base ≤ a ∧ a < r.base + 4 * r.count := by simpa using List.find?_some hfind
  exact ⟨r, List.mem_of_find?_eq_some hfind, hlo, hhi, rfl⟩

/-! ### Reads -/

theorem readWord_loc (s : State) (loc : Loc) {a : Nat} (h : locate a = some loc := by decide) :
    readWord s a = readLoc s loc := by
  rw [readWord, h]

theorem readWord_row (s : State) (loc : Nat → Loc) {base count k : Nat} (hk : k < count)
    (hr : ⟨base, count, loc⟩ ∈ addressMap := by simp [addressMap]) :
    readWord s (base + 4 * k) = readLoc s (loc k) :=
  readWord_loc s (loc k) (locate_row hr hk)

/-- An address in no row of the map reads 0 (20_memory.md R65). -/
theorem readWord_unmapped (s : State) {a : Nat}
    (h : ∀ r ∈ addressMap, a < r.base ∨ r.base + 4 * r.count ≤ a) : readWord s a = 0 := by
  cases hloc : locate a with
  | none => rw [readWord, hloc]
  | some loc =>
    obtain ⟨r, hr, hlo, hhi, -⟩ := mem_row_of_locate hloc
    have := h r hr
    omega

/-- No word of the register space shows the accesses to come. -/
theorem readWord_bus (s : State) (rest : List BusOp) (a : Nat) : readWord { s with bus := rest } a = readWord s a :=
  rfl

theorem signedWord_eq {w n : Nat} (v : Vector (BitVec w) n) {k : Nat} (hk : k < n) :
    signedWord v k = v[k].signExtend 32 := by
  rw [signedWord, rd_eq_getElem v k 0 hk]

/-- An element as wide as a word is the word. -/
theorem signedWord_eq_getElem {n : Nat} (v : Vector (BitVec 32) n) {k : Nat} (hk : k < n) : signedWord v k = v[k] :=
  (signedWord_eq v hk).trans (BitVec.signExtend_eq _)

theorem ofNat_boolToNat (b : Bool) : BitVec.ofNat 32 b.toNat = if b then 1 else 0 := by
  cases b <;> rfl

/-- CTRL reads IRQ_EN at bit 1 and nothing else (10_state.md R23). -/
theorem readLoc_ctrl (s : State) : readLoc s .ctrl = if s.irqEn then 2 else 0 := by
  rw [readLoc]
  cases s.irqEn <;> rfl

theorem readLoc_bw_toNat (s : State) : (readLoc s .bw).toNat = bwCode s.frame.bw := by
  have hbw := bwCode_le s.frame.bw
  rw [readLoc, BitVec.toNat_ofNat, Nat.mod_eq_of_lt (by omega)]

theorem readLoc_latchedClass_toNat (s : State) :
    (readLoc s .latchedClass).toNat = sigCode s.frame.sigType + 16 * qoffCode s.frame.qoff := by
  rw [readLoc]
  cases s.frame.sigType <;> cases s.frame.qoff <;> rfl

/-- The taps of a subframe stand one after the other in one window. -/
theorem readLoc_bQ7 (s : State) {k t : Nat} (hk : k < 4) (ht : t < 5) :
    readLoc s (.bQ7 (5 * k + t)) = ((s.work.bQ7[k])[t]).signExtend 32 := by
  have hdiv : (5 * k + t) / 5 = k := by omega
  have hmod : (5 * k + t) % 5 = t := by omega
  rw [readLoc, hdiv, hmod, rd_eq_getElem _ _ _ hk, signedWord_eq _ ht]

/-! ### Writes -/

/-- A write to a word outside the writable registers is ignored (20_memory.md R65): the rows of CTRL to GAIN_IN alone
hold words that a write acts on. -/
theorem writeWord_readOnly {a : Nat} (ha : a < 0x004 ∨ 0x030 ≤ a) (v : Word) (s : State) :
    writeWord a v s = .next s := by
  have hrows : ∀ r ∈ addressMap, (0x004 ≤ r.base ∧ r.base + 4 * r.count ≤ 0x030) ∨
      ∀ k, writeLoc v s (r.loc k) = .next s := by
    simp [addressMap, writeLoc]
  rw [writeWord]
  cases hloc : locate a with
  | none => rfl
  | some loc =>
    obtain ⟨r, hr, hlo, hhi, rfl⟩ := mem_row_of_locate hloc
    rcases hrows r hr with hin | hro
    · omega
    · exact hro _

/-! ### Which steps answer a next state -/

theorem wordAccess_iff {size : Nat} {a : BitVec 14} : wordAccess size a = true ↔ size = 4 ∧ a.toNat % 4 = 0 := by
  simp [wordAccess]

theorem serve_refuses {s : State} {op : BusOp} (h : ¬Admitted op) : serve s op = .refused .notWordAccess := by
  cases op with
  | resetPin => exact absurd trivial h
  | read size a => exact if_neg (mt wordAccess_iff.mp h)
  | write size a v => exact if_neg (mt wordAccess_iff.mp h)

theorem exec_next (i : Instr) (s : State) : ∃ t, exec i s = .next t := by
  rcases exec_completes i s with ⟨c, h⟩ | ⟨u, -, h⟩
  · exact ⟨_, h⟩
  · exact ⟨_, h⟩

theorem runCommand_of_decode {w : Word} {i : Instr} (h : decode w = .ok i) (s : State) :
    runCommand w s = exec i s := by
  rw [runCommand, h]

theorem runCommand_next (w : Word) (s : State) : ∃ t, runCommand w s = .next t := by
  cases h : decode w with
  | ok i => exact runCommand_of_decode h s ▸ exec_next i s
  | reject r => exact ⟨_, by rw [runCommand, h]; rfl⟩

theorem writeWord_next (a : Nat) (v : Word) (s : State) : ∃ t, writeWord a v s = .next t := by
  rw [writeWord]
  cases locate a with
  | none => exact ⟨_, rfl⟩
  | some loc =>
    cases loc with
    | cmd => exact runCommand_next v s
    | _ => exact ⟨_, rfl⟩

theorem serve_next {op : BusOp} (h : Admitted op) (s : State) : ∃ t, serve s op = .next t := by
  cases op with
  | resetPin => exact ⟨_, rfl⟩
  | read size a => exact ⟨_, if_pos (wordAccess_iff.mpr h)⟩
  | write size a v =>
    rw [serve, if_pos (wordAccess_iff.mpr h)]
    exact writeWord_next a.toNat v s

theorem step_cons {s : State} {op : BusOp} {rest : List BusOp} (h : s.bus = op :: rest) :
    step s = serve { s with bus := rest } op := by
  rw [step, h]

theorem step_nil {s : State} (h : s.bus = []) : step s = .next s := by
  rw [step, h]

end Sys2Proof.Machine
end

section
/-! PROOFS. The statements of 20_memory.md, settled. -/

open Sys2Proof Sys2Proof.Machine

/-- Settles O6: a step is the service of the access at the head of the bus, or idle. -/
theorem stepRefusesExactlyUnadmittedAccesses : Obligations.StepRefusesExactlyUnadmittedAccesses := by
  refine ⟨fun s op rest h hop => (step_cons h).trans (serve_refuses hop), fun s hs => ?_⟩
  cases hb : s.bus with
  | nil => exact ⟨s, step_nil hb⟩
  | cons op rest => exact step_cons hb ▸ serve_next (hs op rest hb) _

/-- Settles O8: the writable words are the aligned addresses from CTRL to the last GAIN_IN. -/
theorem readOnlyAndUnmappedWritesAreIgnored : Obligations.ReadOnlyAndUnmappedWritesAreIgnored := by
  intro s rest a v h ha hout
  have houtside : a.toNat < 0x004 ∨ 0x030 ≤ a.toNat := by
    simp only [List.mem_cons, List.not_mem_nil, or_false] at hout
    omega
  rw [step_of_write h ha, writeWord_readOnly houtside]

/-- Settles O9: no row of the map meets a gap. -/
theorem unmappedWordsReadZero : Obligations.UnmappedWordsReadZero := by
  have hgaps : ∀ h ∈ [(0x034, 0x040), (0x06C, 0x100), (0x3B0, 0x3C0), (0x410, 0x440), (0x490, 0x500),
      (0x540, 0x800), (0xCC8, 0x1000), (0x1500, 0x1800), (0x1D00, 0x2000), (0x2500, 0x2800),
      (0x2D00, 0x4000)], ∀ r ∈ addressMap, h.2 ≤ r.base ∨ r.base + 4 * r.count ≤ h.1 := by decide
  refine ⟨fun s rest a h ha => (step_of_read h ha).trans (by rw [readWord_bus]), ?_⟩
  rintro s a - ⟨h, hmem, hlo, hhi⟩
  exact readWord_unmapped s fun r hr => (hgaps h hmem r hr).imp hhi.trans_le hlo.trans'

/-- Settles O10, row by row of the map. -/
theorem namedWordsReadTheirElements : Obligations.NamedWordsReadTheirElements := by
  intro s
  refine ⟨⟨readWord_loc s .id, (readWord_loc s .ctrl).trans (readLoc_ctrl s), readWord_loc s .cmd,
      readWord_loc s .cfg, readWord_loc s .durationNs, readWord_loc s .outCap, readWord_loc s .frameInfo,
      readWord_loc s .phase, ?_, readWord_loc s .i1, readWord_loc s .wQ2,
      (readWord_loc s .interp).trans (ofNat_boolToNat s.work.interp), readWord_loc s .lag, readWord_loc s .ltpPer,
      readWord_loc s .ltpScaleQ14, readWord_loc s .seed, readWord_loc s .rateLevel, ?_,
      (readWord_loc s .first).trans (ofNat_boolToNat s.frame.first)⟩,
    fun k h => ⟨?_, ?_, ?_, fun t ht => ?_⟩, fun k h => ⟨?_, ?_, ?_, ?_, ?_, ?_, ?_, ?_, ?_, ?_⟩,
    fun k h => ⟨?_, ?_⟩, fun k h => ?_, fun k h => ⟨?_, ?_, ?_, ?_⟩⟩
  · rw [readWord_loc s .bw, readLoc_bw_toNat]
  · rw [readWord_loc s .latchedClass, readLoc_latchedClass_toNat]
  · exact (readWord_row s .gainIn h).trans (rd_eq_getElem _ _ _ h)
  · exact (readWord_row s .pitchLag h).trans (signedWord_eq _ h)
  · exact (readWord_row s .ltpIdx h).trans (congrArg (BitVec.setWidth 32) (rd_eq_getElem _ _ _ h))
  · exact (readWord_row s .bQ7 (by omega : 5 * k + t < 20)).trans (readLoc_bQ7 s h ht)
  · exact (readWord_row s .prevNlsf h).trans (signedWord_eq _ h)
  · exact (readWord_row s .nlsf2 h).trans (signedWord_eq _ h)
  · exact (readWord_row s .nlsf1 h).trans (signedWord_eq _ h)
  · exact (readWord_row s .i2 h).trans (signedWord_eq _ h)
  · exact (readWord_row s .resQ10 h).trans (signedWord_eq_getElem _ h)
  · exact (readWord_row s (.aQ12 0) h).trans (signedWord_eq _ h)
  · exact (readWord_row s (.aQ12 1) h).trans (signedWord_eq _ h)
  · exact (readWord_row s (.a32 0) h).trans (signedWord_eq_getElem _ h)
  · exact (readWord_row s (.a32 1) h).trans (signedWord_eq_getElem _ h)
  · exact (readWord_row s .lpcHist h).trans (rd_eq_getElem _ _ _ h)
  · exact (readWord_row s .pulseCount h).trans (congrArg (BitVec.ofNat 32) (rd_eq_getElem _ _ _ h))
  · exact (readWord_row s .lsbCount h).trans (congrArg (BitVec.ofNat 32) (rd_eq_getElem _ _ _ h))
  · exact (readWord_row s .outHist h).trans (rd_eq_getElem _ _ _ h)
  · exact (readWord_row s .eRaw h).trans (signedWord_eq_getElem _ h)
  · exact (readWord_row s .eQ23 h).trans (signedWord_eq_getElem _ h)
  · exact (readWord_row s .out h).trans (rd_eq_getElem _ _ _ h)
  · exact (readWord_row s .lpcBuf h).trans (rd_eq_getElem _ _ _ h)

/-- Settles O5: CMD holds no value, a write to it runs the command. -/
theorem stepRunsTheWrittenCommand : Obligations.StepRunsTheWrittenCommand :=
  fun _ _ _ _ h hdec => (step_writeLoc h rfl locate_cmd).trans (runCommand_of_decode hdec _)

end

section
/-! PROOFS. The command word: what the rows of the opcode map hold, which words the decoder accepts, and that the
fields of a word determine it. -/

namespace Sys2Proof

/-! ### The opcode map -/

/-- No opcode stands in two rows (30_encoding.md R82). -/
theorem opcodeMap_distinct : opcodeMap.Pairwise fun r r' => r.opc ≠ r'.opc := by decide

theorem find_row {r : OpRow} (hr : r ∈ opcodeMap) : opcodeMap.find? (fun r' => r'.opc == r.opc) = some r := by
  obtain ⟨before, after, hsplit⟩ := List.append_of_mem hr
  obtain ⟨-, -, hdistinct⟩ := List.pairwise_append.mp (hsplit ▸ opcodeMap_distinct)
  exact List.find?_eq_some_iff_append.mpr ⟨beq_self_eq_true _, before, after, hsplit,
    fun r' h => by simpa using hdistinct r' h r List.mem_cons_self⟩

/-- The command of a row and a legal operand has that opcode and that operand, and admits it. -/
theorem build_fields : ∀ r ∈ opcodeMap, ∀ arg : BitVec 4, arg.toNat < r.args →
    (opcodeOf (r.build arg)).toNat = r.opc ∧ argOf (r.build arg) = arg ∧ (r.build arg).wf = true := by
  decide

/-- Every command with an operand it admits is the command of a row. -/
theorem exists_row_of_wf {i : Instr} (h : i.wf = true) :
    ∃ r ∈ opcodeMap, (opcodeOf i).toNat = r.opc ∧ (argOf i).toNat < r.args ∧ r.build (argOf i) = i := by
  cases i with
  | lpcConvert set | lpcRange set | lpcGainlim set | synth set =>
    simpa [opcodeMap, opcodeOf, argOf] using of_decide_eq_true h
  | _ => simp [opcodeMap, opcodeOf, argOf]

/-- The families of the rows by their legal operands (30_encoding.md R81): the LPC commands, SYNTH, and the commands
that take none. -/
theorem row_family : ∀ r ∈ opcodeMap, ∀ arg : BitVec 4, arg.toNat < r.args →
    (BitVec.ofNat 8 r.opc ∈ ([0x20, 0x21, 0x22] : List (BitVec 8)) ∧ arg.toNat < 2) ∨
    (BitVec.ofNat 8 r.opc = 0x50 ∧ arg.toNat < 4) ∨
    (BitVec.ofNat 8 r.opc ∈ ([0x01, 0x02, 0x10, 0x11, 0x12, 0x13, 0x14, 0x30, 0x31, 0x32, 0x40, 0x41,
        0x42, 0x43, 0x44, 0x45, 0x46, 0x51, 0x7F] : List (BitVec 8)) ∧ arg = 0) := by
  decide

/-! ### The fields of a word -/

/-- OPC, ARG and RSV cover the word (30_encoding.md R80). -/
theorem toNat_eq_fields (w : Word) : w.toNat =
    (w.extractLsb' 12 20).toNat * 2 ^ 12 + (w.extractLsb' 8 4).toNat * 2 ^ 8 + (w.extractLsb' 0 8).toNat := by
  simp only [BitVec.extractLsb'_toNat, Nat.shiftRight_eq_div_pow]
  omega

theorem eq_of_fields {w v : Word} (hopc : w.extractLsb' 0 8 = v.extractLsb' 0 8)
    (harg : w.extractLsb' 8 4 = v.extractLsb' 8 4) (hrsv : w.extractLsb' 12 20 = v.extractLsb' 12 20) : w = v :=
  BitVec.eq_of_toNat_eq (by rw [toNat_eq_fields w, toNat_eq_fields v, hopc, harg, hrsv])

/-- The fields of the word of a command. -/
theorem encode_fields (i : Instr) : Laws.EncodeShape.Statement i := by
  cases i with
  | resetState => exact Laws.EncodeShape.resetState
  | frameBegin => exact Laws.EncodeShape.frameBegin
  | lsfS1 => exact Laws.EncodeShape.lsfS1
  | lsfS2 => exact Laws.EncodeShape.lsfS2
  | lsfRecon => exact Laws.EncodeShape.lsfRecon
  | lsfStab => exact Laws.EncodeShape.lsfStab
  | lsfInterp => exact Laws.EncodeShape.lsfInterp
  | lpcConvert set => exact Laws.EncodeShape.lpcConvert set
  | lpcRange set => exact Laws.EncodeShape.lpcRange set
  | lpcGainlim set => exact Laws.EncodeShape.lpcGainlim set
  | pitchLags => exact Laws.EncodeShape.pitchLags
  | ltpCoefs => exact Laws.EncodeShape.ltpCoefs
  | ltpScale => exact Laws.EncodeShape.ltpScale
  | excSeed => exact Laws.EncodeShape.excSeed
  | excRate => exact Laws.EncodeShape.excRate
  | excCounts => exact Laws.EncodeShape.excCounts
  | excShell => exact Laws.EncodeShape.excShell
  | excLsb => exact Laws.EncodeShape.excLsb
  | excSigns => exact Laws.EncodeShape.excSigns
  | excRecon => exact Laws.EncodeShape.excRecon
  | synth sub => exact Laws.EncodeShape.synth sub
  | frameEnd => exact Laws.EncodeShape.frameEnd
  | decodeFrame => exact Laws.EncodeShape.decodeFrame

/-! ### The decoder -/

/-- A word is accepted exactly where RSV is 0 and a row holds OPC and admits ARG (30_encoding.md R81 to R83). -/
theorem decode_eq_ok_iff {w : Word} {i : Instr} : decode w = .ok i ↔ w.extractLsb' 12 20 = 0 ∧
    ∃ r ∈ opcodeMap, (w.extractLsb' 0 8).toNat = r.opc ∧ (w.extractLsb' 8 4).toNat < r.args ∧
      r.build (w.extractLsb' 8 4) = i := by
  have hfields := toNat_eq_fields w
  have hrsv : w.toNat / 2 ^ 12 = 0 ↔ w.extractLsb' 12 20 = 0 := by bv_omega
  have hopc : w.toNat % 2 ^ 8 = (w.extractLsb' 0 8).toNat := by omega
  have harg : w.toNat / 2 ^ 8 % 2 ^ 4 = (w.extractLsb' 8 4).toNat := by omega
  simp only [decode, ne_eq, hrsv, hopc, harg, BitVec.ofNat_toNat, BitVec.setWidth_eq]
  constructor
  · intro h
    split at h
    · cases h
    · next h0 =>
      split at h
      · cases h
      · next r hfind =>
        have hr : r.opc = (w.extractLsb' 0 8).toNat := by simpa using List.find?_some hfind
        split at h
        · next hlt =>
          exact ⟨not_not.mp h0, r, List.mem_of_find?_eq_some hfind, hr.symm, hlt, Decoded.ok.inj h⟩
        · cases h
  · rintro ⟨h0, r, hr, hopc, hlt, rfl⟩
    rw [if_neg (not_not.mpr h0), hopc, find_row hr]
    exact if_pos hlt

/-- The encoder is the inverse of the decoder (30_encoding.md R84). -/
theorem decode_encode {i : Instr} (h : i.wf = true) : decode (encode i) = .ok i := by
  obtain ⟨hopc, harg, hrsv⟩ := encode_fields i
  exact decode_eq_ok_iff.mpr ⟨hrsv, by rw [hopc, harg]; exact exists_row_of_wf h⟩

/-- A word that decodes to a command is the word of that command, which admits its operand. -/
theorem eq_encode_of_decode {w : Word} {i : Instr} (h : decode w = .ok i) : i.wf = true ∧ w = encode i := by
  obtain ⟨hrsv, r, hr, hopc, hlt, rfl⟩ := decode_eq_ok_iff.mp h
  obtain ⟨hopc', harg', hwf⟩ := build_fields r hr _ hlt
  obtain ⟨eopc, earg, ersv⟩ := encode_fields (r.build (w.extractLsb' 8 4))
  refine ⟨hwf, eq_of_fields ?_ (harg'.symm.trans earg.symm) (hrsv.trans ersv.symm)⟩
  exact BitVec.eq_of_toNat_eq (by rw [eopc, hopc, hopc'])

end Sys2Proof
end

section
/-! PROOFS. The statements of 30_encoding.md, settled. -/

open Sys2Proof Sys2Proof.Machine

/-- Settles O1: the decoder and the encoder are inverse to each other. -/
theorem wordsDecodeExactlyToTheirCommand : Obligations.WordsDecodeExactlyToTheirCommand :=
  fun _ _ => ⟨eq_encode_of_decode, fun ⟨hwf, hw⟩ => hw ▸ decode_encode hwf⟩

/-- Settles O2: an accepted word lies in one of the families. -/
theorem wordsOutsideTheTableAreIllegal : Obligations.WordsOutsideTheTableAreIllegal := by
  intro s rest w h hout
  rw [step_writeLoc h rfl locate_cmd, writeLoc, runCommand]
  cases hdec : decode w with
  | reject r => rfl
  | ok i =>
    obtain ⟨hrsv, r, hr, hopc, hlt, -⟩ := decode_eq_ok_iff.mp hdec
    have hfield : BitVec.ofNat 8 r.opc = w.extractLsb' 0 8 := by rw [← hopc, BitVec.ofNat_toNat, BitVec.setWidth_eq]
    exact absurd ⟨hrsv, hfield ▸ row_family r hr _ hlt⟩ hout

/-- Settles O3: the commands that take an operand check it before anything else. -/
theorem unadmittedOperandsAreIllegal : Obligations.UnadmittedOperandsAreIllegal := by
  intro i s h
  cases i with
  | lpcConvert set | lpcRange set | lpcGainlim set => exact onSet_of_ge (Nat.not_lt.mp (of_decide_eq_false h)) _ s
  | synth sub => exact onSubframe_of_ge (Nat.not_lt.mp (of_decide_eq_false h)) _ s
  | _ => cases h

/-- Settles O4: each word is the encoding of its command. -/
theorem sampleWordsDecode : Obligations.SampleWordsDecode := by
  refine ⟨?_, ?_, ?_, ?_, ?_, ?_, ?_, ?_, ?_⟩ <;> exact (wordsDecodeExactlyToTheirCommand _ _).mpr (by decide)

end

section
/-! PROOFS. The LSF commands as they run after their predecessor, and the elements they replace. -/

namespace Sys2Proof.Machine

/-- A command that marks bit `b` after bit `x` runs its effect (70_reset_and_hazards.md R340). -/
theorem command_after {x b : PhaseBit} (effect : State → State) {s : State}
    (hx : s.phase.getLsbD (phaseIndex x) = true) (hb : s.phase.getLsbD (phaseIndex b) = false) :
    command (after x b) effect s = .next (complete (effect s)) :=
  command_of_pre effect (by simp [after, phaseHas, hx, hb])

theorem getD_of_forall {xs : List Int} {P : Int → Prop} (h : ∀ x ∈ xs, P x) {i : Nat} (hi : i < xs.length) :
    P (xs.getD i 0) := by
  rw [List.getD_eq_getElem _ _ hi]
  exact h _ (List.getElem_mem hi)

/-- The first `d` elements replaced by integers of their range hold those integers. -/
theorem rdI_storeFirst_of_fits {w m n d : Nat} {v : Vector (BitVec w) m} {xs : List Int} {k : Nat} (hw : 0 < w)
    (hlen : xs.length = d) (hd : d ≤ m) (hk : k < d) (h : ∀ x ∈ xs, Fits w x) :
    rdI (storeFirst n v xs) k = xs.getD k 0 := by
  subst hlen
  obtain ⟨hlo, hhi⟩ := getD_of_forall h hk
  exact rdI_storeFirst n v xs k hd hk hw hlo hhi

/-- The elements after the first `d` are kept. -/
theorem rd_storeFirst_of_ge {w m n d : Nat} {v : Vector (BitVec w) m} {xs : List Int} {k : Nat}
    (hlen : xs.length = d) (hd : d ≤ m) (hk : d ≤ k) : rd (storeFirst n v xs) k 0 = rd v k 0 := by
  subst hlen
  rw [rd_storeFirst n v xs k hd, if_neg (Nat.not_lt.mpr hk)]

/-- Integers of 0..32767 fit the elements of the NLSF vectors. -/
theorem fits16_of_bounds {xs : List Int} (h : ∀ x ∈ xs, 0 ≤ x ∧ x ≤ 32767) : ∀ x ∈ xs, Fits 16 x := by
  intro x hx
  obtain ⟨hlo, hhi⟩ := h x hx
  exact fits16 (by omega) hhi

/-- Entries of rows of numbers below `b`, and what is read outside the rows, are below `b`. -/
theorem numRows_getD_lt {m n b : Nat} {rows : List (List Nat)} (hb : 0 < b)
    (h : rowsWf m (fun _ => numsWf n b) rows = true) (i k : Nat) : (rows.getD i []).getD k 0 < b := by
  by_cases hi : i < m
  · have hrow := rowsWf_getD h i [] hi
    by_cases hk : k < n
    · exact numsWf_getD hrow k 0 hk
    · simp only [numsWf, Bool.and_eq_true, decide_eq_true_eq] at hrow
      rwa [List.getD_eq_default _ _ (by omega)]
  · simp only [rowsWf, Bool.and_eq_true, decide_eq_true_eq] at h
    rwa [List.getD_eq_default rows _ (by omega)]

/-- The tables of a bandwidth group pass their checks in every record a block is built with. -/
theorem classBook_wf (tables : Tables) (c : BwClass) :
    bookWf tables.val.nCb1 (dOfClass c) (forClass tables.val.lsf c) = true := by
  obtain ⟨-, hnbmb, hwb, -⟩ := params_wf { State.reset with tables := tables }
  cases c
  · exact hnbmb
  · exact hwb

end Sys2Proof.Machine
end

section
/-! PROOFS. What LSF_S2 draws: bases and extensions in order (40_lsf.md R104 to R106). -/

namespace Sys2Proof.Machine

/-- Where the fixed answers begin with what each element of the list takes, in order, drawing gives each element's
result and leaves the rest of the answers. -/
theorem drawEach_of_script {α β : Type} {f : α → Cursor → β × Cursor} {taken : α → List Nat} {result : α → β}
    {as : List α} {rest : List Nat} {c : Cursor}
    (h : ∀ a ∈ as, ∀ (more : List Nat) (c : Cursor), c.script = taken a ++ more →
      (f a c).1 = result a ∧ (f a c).2.script = more)
    (hc : c.script = as.flatMap taken ++ rest) :
    (drawEach f as c).1 = as.map result ∧ (drawEach f as c).2.script = rest := by
  induction as generalizing c with
  | nil => exact ⟨rfl, hc⟩
  | cons a as ih =>
    rw [List.flatMap_cons, List.append_assoc] at hc
    obtain ⟨hval, hscript⟩ := h a List.mem_cons_self _ c hc
    obtain ⟨hvals, hrest⟩ := ih (fun b hb => h b (List.mem_cons_of_mem _ hb)) hscript
    exact ⟨by rw [drawEach, hval, hvals, List.map_cons], hrest⟩

/-- A fixed answer that is admissible is the answer, and the others stay fixed. -/
theorem sym_of_script_cons {tab : Icdf} {a : Nat} {rest : List Nat} {c : Cursor} (ha : IsAnswer tab a)
    (hc : c.script = a :: rest) : (sym tab c).1 = a ∧ (sym tab c).2.script = rest := by
  obtain ⟨script, served⟩ := c
  subst hc
  rw [sym_of_script ha]
  exact ⟨rfl, rfl⟩

/-- The answers one position uses of its base answer and its extension: the extension at the extremes alone
(40_lsf.md R105). -/
def usedAnswers (p : Nat × Nat) : List Nat := if p.1 = 0 ∨ p.1 = 8 then [p.1, p.2] else [p.1]

/-- The residual index of a base answer and its extension (40_lsf.md R106). -/
def extendedIndex (p : Nat × Nat) : Int :=
  if p.1 = 0 then -4 - (p.2 : Int) else if p.1 = 8 then 4 + p.2 else (p.1 : Int) - 4

/-- One position with its answers fixed (40_lsf.md R105, R106). -/
theorem residualIndex_of_script {ext tab : Icdf} {p : Nat × Nat} {rest : List Nat} {c : Cursor}
    (hbase : IsAnswer tab p.1) (hext : IsAnswer ext p.2) (hc : c.script = usedAnswers p ++ rest) :
    (residualIndex ext tab c).1 = extendedIndex p ∧ (residualIndex ext tab c).2.script = rest := by
  obtain ⟨base, e⟩ := p
  dsimp only [usedAnswers, extendedIndex] at *
  by_cases hextreme : base = 0 ∨ base = 8
  · rw [if_pos hextreme] at hc
    obtain ⟨hb, hscript⟩ := sym_of_script_cons hbase hc
    obtain ⟨he, hrest⟩ := sym_of_script_cons hext hscript
    rcases hextreme with rfl | rfl <;> simp [residualIndex, hb, he, hrest]
  · rw [if_neg hextreme] at hc
    obtain ⟨hb, hscript⟩ := sym_of_script_cons hbase hc
    have hlow : ¬(base : Int) - 4 = -4 := by omega
    have hhigh : ¬(base : Int) - 4 = 4 := by omega
    rw [if_neg (fun h => hextreme (.inl h)), if_neg (fun h => hextreme (.inr h))]
    simp only [residualIndex, hb, if_neg hlow, if_neg hhigh]
    exact ⟨trivial, hscript⟩

/-- One position makes one or two requests (40_lsf.md R105). -/
theorem residualIndex_served {ext tab : Icdf} (hext : icdfWf 7 ext = true) (htab : icdfWf 9 tab = true)
    (c : Cursor) : c.served + 1 ≤ (residualIndex ext tab c).2.served ∧
      (residualIndex ext tab c).2.served ≤ c.served + 2 := by
  obtain ⟨-, -, hbase, -⟩ := sym_spec htab c
  obtain ⟨-, -, he, -⟩ := sym_spec hext (sym tab c).2
  simp only [residualIndex]
  split
  · dsimp only
    omega
  · split <;> dsimp only <;> omega

/-- The stage-2 table is an ICDF of 9 entries whatever S.I1 holds: outside the stage-1 vectors row 0 is read. -/
theorem stage2Table_wf_of_any (s : State) (i1 k : Nat) : icdfWf 9 (stage2Table (book s) i1 k) = true := by
  have h := book_wf s
  simp only [bookWf, Bool.and_eq_true] at h
  obtain ⟨⟨⟨⟨⟨⟨⟨⟨-, -⟩, -⟩, hsel⟩, hicdf⟩, -⟩, -⟩, -⟩, -⟩ := h
  exact rowsWf_getD hicdf _ [] (numRows_getD_lt (by decide) hsel i1 k)

@[simp] theorem drawnIndices_length (s : State) : (drawnIndices s).length = order s := by
  simp [drawnIndices]

/-- The drawn indices lie in -10..10, whatever S.I1 holds (40_lsf.md R106). -/
theorem drawnIndices_bounds_of_any (s : State) : ∀ x ∈ drawnIndices s, -10 ≤ x ∧ x ≤ 10 := by
  intro x hx
  obtain ⟨k, -, c, rfl⟩ := exists_of_mem_drawEach hx
  obtain ⟨-, -, -, hext, -⟩ := params_wf s
  exact residualIndex_bounds hext (stage2Table_wf_of_any s _ k) c

/-- LSF_S2 stores the indices it draws. -/
theorem lsfS2_i2 (s : State) {k : Nat} (hk : k < order s) :
    rdI (lsfS2 s).work.i2 k = (drawnIndices s).getD k 0 := by
  rw [lsfS2_work]
  refine rdI_storeFirst_of_fits (by decide) (drawnIndices_length s) (order_le s) hk fun x hx => ?_
  have := drawnIndices_bounds_of_any s x hx
  constructor <;> norm_num <;> omega

/-- LSF_S2 makes one or two requests a position (40_lsf.md R105). -/
theorem lsfS2_served (s : State) : s.cursor.served + order s ≤ (lsfS2 s).cursor.served ∧
    (lsfS2 s).cursor.served ≤ s.cursor.served + 2 * order s := by
  obtain ⟨-, -, -, hext, -⟩ := params_wf s
  have h := drawEach_served (as := List.range (order s)) 1 2
    (fun k _ c => residualIndex_served hext (stage2Table_wf_of_any s s.work.i1.toNat k) c) s.cursor
  rwa [List.length_range, Nat.one_mul] at h

theorem map_getD_range {α : Type} (xs : List α) (d : α) : (List.range xs.length).map (xs.getD · d) = xs :=
  List.ext_getElem (by simp) fun i _ hi => by simp [hi]

/-- LSF_S2 with the answers of every position fixed: it draws their indices and leaves the rest (40_lsf.md R105,
R106). -/
theorem lsfS2_of_script {s : State} {ans : List (Nat × Nat)} {rest : List Nat} (hlen : ans.length = order s)
    (hans : ∀ k, k < order s → IsAnswer (stage2Table (book s) s.work.i1.toNat k) (ans.getD k (0, 0)).1 ∧
      IsAnswer (params s).extIcdf (ans.getD k (0, 0)).2)
    (hc : s.cursor.script = ans.flatMap usedAnswers ++ rest) :
    drawnIndices s = (List.range (order s)).map (fun k => extendedIndex (ans.getD k (0, 0))) ∧
      (lsfS2 s).cursor.script = rest := by
  refine drawEach_of_script (taken := fun k => usedAnswers (ans.getD k (0, 0))) (fun k hk more c hmore => ?_) ?_
  · obtain ⟨hbase, hext⟩ := hans k (List.mem_range.mp hk)
    exact residualIndex_of_script hbase hext hmore
  · rw [hc, ← hlen, ← List.flatMap_map (ans.getD · (0, 0)), map_getD_range]

end Sys2Proof.Machine
end

section
/-! PROOFS. The residuals and the raw vector of LSF_RECON (40_lsf.md R107) and the reconstruction weights
(40_lsf.md R108). -/

namespace Sys2Proof.Machine

/-! ### Residuals -/

/-- A residual from the one above it, 0 above the last (40_lsf.md R107). -/
def predictedResidual (b : LsfBook) (i1 : Nat) (i2 : List Int) (k : Nat) (above : Int) : Int :=
  asr (above * predWeight b i1 k) 8 + quantTerm (i2.getD k 0) b.qstepQ16

/-- The residuals of the `m` positions from `j` on, the last of them predicted from nothing. -/
def residualsFrom (n : Nat) (b : LsfBook) (i1 : Nat) (i2 : List Int) (j m : Nat) : List Int :=
  (List.range' j m).foldr (fun k above => held n 32 (predictedResidual b i1 i2 k (above.getD 0 0)) :: above) []

theorem residuals_eq (n : Nat) (b : LsfBook) (i1 : Nat) (i2 : List Int) (d : Nat) :
    residuals n b i1 i2 d = residualsFrom n b i1 i2 0 d := by
  rw [residuals, residualsFrom, List.range_eq_range']
  congr
  funext k above
  cases above <;> simp [predictedResidual, asr]

theorem residualsFrom_succ (n : Nat) (b : LsfBook) (i1 : Nat) (i2 : List Int) (j m : Nat) :
    residualsFrom n b i1 i2 j (m + 1) =
      held n 32 (predictedResidual b i1 i2 j ((residualsFrom n b i1 i2 (j + 1) m).getD 0 0)) ::
        residualsFrom n b i1 i2 (j + 1) m := by
  rw [residualsFrom, List.range'_succ, List.foldr_cons, residualsFrom]

theorem residualsFrom_length (n : Nat) (b : LsfBook) (i1 : Nat) (i2 : List Int) (j m : Nat) :
    (residualsFrom n b i1 i2 j m).length = m := by
  induction m generalizing j with
  | zero => rfl
  | succ m ih => rw [residualsFrom_succ, List.length_cons, ih]

@[simp] theorem frameResiduals_length (s : State) : (frameResiduals s).length = order s := by
  rw [frameResiduals, residuals_eq, residualsFrom_length]

/-- The magnitude no residual exceeds where QSTEP lies in 0..65535. -/
def residualBound : Int := 2 ^ 26

theorem quantTerm_bounds {i2 q : Int} (hi : -128 ≤ i2 ∧ i2 ≤ 127) (hq : 0 ≤ q ∧ q ≤ 65535) :
    -131072 ≤ quantTerm i2 q ∧ quantTerm i2 q ≤ 131072 := by
  have hm : -131072 ≤ shl i2 10 - signI i2 * 102 ∧ shl i2 10 - signI i2 * 102 ≤ 131072 := by
    simp only [shl, signI]
    split
    · omega
    · split <;> omega
  simp only [quantTerm, asr]
  generalize shl i2 10 - signI i2 * 102 = m at *
  have hlo : -131072 * 65536 ≤ m * q := by nlinarith
  have hhi : m * q ≤ 131072 * 65536 := by nlinarith
  omega

/-- The prediction shrinks a residual by more than the quantised term can add. -/
theorem predictedResidual_bounds {b : LsfBook} {i1 : Nat} {i2 : List Int} {k : Nat} {above : Int}
    (hp : predWeight b i1 k < 256) (hi : -128 ≤ i2.getD k 0 ∧ i2.getD k 0 ≤ 127)
    (hq : 0 ≤ b.qstepQ16 ∧ b.qstepQ16 ≤ 65535) (h : -residualBound ≤ above ∧ above ≤ residualBound) :
    -residualBound ≤ predictedResidual b i1 i2 k above ∧ predictedResidual b i1 i2 k above ≤ residualBound := by
  have hquant := quantTerm_bounds hi hq
  simp only [predictedResidual, residualBound, asr] at *
  generalize predWeight b i1 k = p at *
  have hp' : 0 ≤ (p : Int) ∧ (p : Int) ≤ 255 := by omega
  have hlo : -(2 ^ 26) * 255 ≤ above * p := by nlinarith
  have hhi : above * p ≤ 2 ^ 26 * 255 := by nlinarith
  omega

/-- The residuals stay within their bound, so each is held as the formula gives it (40_lsf.md R107). -/
theorem residualsFrom_spec (n : Nat) {b : LsfBook} {i1 : Nat} {i2 : List Int}
    (hp : ∀ k, predWeight b i1 k < 256) (hi : ∀ k, -128 ≤ i2.getD k 0 ∧ i2.getD k 0 ≤ 127)
    (hq : 0 ≤ b.qstepQ16 ∧ b.qstepQ16 ≤ 65535) (j m : Nat) :
    (∀ x ∈ residualsFrom n b i1 i2 j m, -residualBound ≤ x ∧ x ≤ residualBound) ∧
    ∀ k, k < m → (residualsFrom n b i1 i2 j m).getD k 0 =
      predictedResidual b i1 i2 (j + k) ((residualsFrom n b i1 i2 j m).getD (k + 1) 0) := by
  induction m generalizing j with
  | zero => exact ⟨by simp [residualsFrom], fun k hk => absurd hk (Nat.not_lt_zero k)⟩
  | succ m ih =>
    obtain ⟨hbound, hrec⟩ := ih (j + 1)
    have habove : -residualBound ≤ (residualsFrom n b i1 i2 (j + 1) m).getD 0 0 ∧
        (residualsFrom n b i1 i2 (j + 1) m).getD 0 0 ≤ residualBound := by
      by_cases h : 0 < (residualsFrom n b i1 i2 (j + 1) m).length
      · exact getD_of_forall hbound h
      · rw [List.getD_eq_default _ _ (by omega)]
        decide
    have hnew := predictedResidual_bounds (hp j) (hi j) hq habove
    have hheld : held n 32 (predictedResidual b i1 i2 j ((residualsFrom n b i1 i2 (j + 1) m).getD 0 0)) = _ :=
      held_of_mem n (by decide) (by norm_num [residualBound] at hnew ⊢; omega)
        (by norm_num [residualBound] at hnew ⊢; omega)
    rw [residualsFrom_succ, hheld]
    refine ⟨List.forall_mem_cons.mpr ⟨hnew, hbound⟩, fun k hk => ?_⟩
    cases k with
    | zero => rfl
    | succ k =>
      rw [List.getD_cons_succ, List.getD_cons_succ, hrec k (by omega), Nat.add_right_comm, Nat.add_assoc]

theorem predWeight_lt (s : State) (i1 k : Nat) : predWeight (book s) i1 k < 256 := by
  have h := book_wf s
  simp only [bookWf, Bool.and_eq_true] at h
  obtain ⟨⟨⟨-, hpred⟩, -⟩, -⟩ := h
  exact numRows_getD_lt (by decide) hpred _ k

/-- An element of the array of residual indices, and 0 outside it, is an int8. -/
theorem firstI_getD_int8 {m : Nat} (v : Vector (BitVec 8) m) (d k : Nat) :
    -128 ≤ (firstI v d).getD k 0 ∧ (firstI v d).getD k 0 ≤ 127 := by
  by_cases hk : k < d
  · have hlo := BitVec.le_toInt (rd v k 0)
    have hhi := BitVec.toInt_lt (x := rd v k 0)
    rw [firstI_getD v d k hk, rdI]
    omega
  · rw [List.getD_eq_default _ _ (by simpa using hk)]
    decide

/-- The residuals of the frame satisfy the recursion of 40_lsf.md R107 and fit their elements. -/
theorem frameResiduals_spec {s : State} (hq : 0 ≤ (book s).qstepQ16 ∧ (book s).qstepQ16 ≤ 65535) :
    (∀ x ∈ frameResiduals s, Fits 32 x) ∧ ∀ k, k < order s → (frameResiduals s).getD k 0 =
      predictedResidual (book s) s.work.i1.toNat (firstI s.work.i2 (order s)) k ((frameResiduals s).getD (k + 1) 0) := by
  obtain ⟨hbound, hrec⟩ := residualsFrom_spec s.fresh (predWeight_lt s s.work.i1.toNat)
    (firstI_getD_int8 s.work.i2 (order s)) hq 0 (order s)
  rw [frameResiduals, residuals_eq]
  refine ⟨fun x hx => ?_, fun k hk => by rw [hrec k hk, Nat.zero_add]⟩
  have hx := hbound x hx
  simp only [residualBound] at hx
  constructor <;> norm_num <;> omega

/-- LSF_RECON stores the residuals as they are, where they fit. -/
theorem lsfRecon_resQ10 {s : State} (hfits : ∀ x ∈ frameResiduals s, Fits 32 x) {k : Nat} (hk : k < order s) :
    rdI (lsfRecon s).work.resQ10 k = (frameResiduals s).getD k 0 :=
  rdI_storeFirst_of_fits (by decide) (frameResiduals_length s) (order_le s) hk hfits

@[simp] theorem frameRawNlsf_length (s : State) : (frameRawNlsf s).length = order s := by
  simp [frameRawNlsf]

/-- LSF_RECON stores the clamped reconstruction of every position (40_lsf.md R107, R109). -/
theorem lsfRecon_nlsf2 (s : State) {k : Nat} (hk : k < order s) :
    rdI (lsfRecon s).work.nlsf2 k = rawNlsf (stage1Vector s) (frameResiduals s) k := by
  rw [lsfRecon_work, rdI_storeFirst_of_fits (by decide) (frameRawNlsf_length s) (order_le s) hk
    (fits16_of_bounds (frameRawNlsf_bounds s))]
  simp [frameRawNlsf, hk]

/-! ### Weights -/

/-- A number of `[2^a, 2^b)` has its logarithm in `a + 1 .. b` (00_scope.md R9). -/
theorem ilog_bounds {x : Int} {a b : Nat} (hlo : (2 ^ a : Nat) ≤ x) (hhi : x < (2 ^ b : Nat)) :
    a + 1 ≤ ilog x ∧ ilog x ≤ b := by
  have hpos : 0 < 2 ^ a := Nat.two_pow_pos a
  have hx : x.toNat ≠ 0 := by omega
  have h1 : a ≤ x.toNat.log2 := (Nat.le_log2 hx).mpr (by omega)
  have h2 : x.toNat.log2 < b := (Nat.log2_lt hx).mpr (by omega)
  rw [ilog, if_neg (by omega)]
  omega

/-- The checks of a stage-1 vector, by index (40_lsf.md R101). -/
theorem cb1Wf_getD {d : Nat} {cb : List Nat} (h : cb1Wf d cb = true) : cb.length = d ∧
    (∀ k, k < d → cb.getD k 0 < 256) ∧ 0 < cb.getD 0 0 ∧ ∀ k, k + 1 < d → cb.getD k 0 < cb.getD (k + 1) 0 := by
  simp only [cb1Wf, Bool.and_eq_true, decide_eq_true_eq, List.all_eq_true, List.mem_range] at h
  obtain ⟨⟨hnums, hfirst⟩, hrise⟩ := h
  have hlen : cb.length = d := by
    simp only [numsWf, Bool.and_eq_true, decide_eq_true_eq] at hnums
    exact hnums.1
  exact ⟨hlen, fun k hk => numsWf_getD hnums k 0 hk, hfirst, fun k hk => hrise k (by omega)⟩

/-- The bounds of a stage-1 vector lie in 0..256 (40_lsf.md R107). -/
theorem cbBound_mem {d : Nat} {cb : List Nat} (h : cb1Wf d cb = true) (j : Nat) :
    0 ≤ cbBound cb j ∧ cbBound cb j ≤ 256 := by
  obtain ⟨hlen, hlt, -, -⟩ := cb1Wf_getD h
  simp only [cbBound]
  split
  · omega
  · split
    · next hj =>
      have := hlt (j - 1) (by omega)
      omega
    · omega

/-- The bounds of a stage-1 vector rise, from 0 below the first entry to 256 above the last. -/
theorem cbBound_lt {d : Nat} {cb : List Nat} (h : cb1Wf d cb = true) {j : Nat} (hd : 0 < d) (hj : j ≤ d) :
    cbBound cb j < cbBound cb (j + 1) := by
  obtain ⟨hlen, hlt, hfirst, hrise⟩ := cb1Wf_getD h
  cases j with
  | zero => simpa [cbBound, hlen, hd] using hfirst
  | succ j =>
    simp only [cbBound, Nat.succ_ne_zero, if_false, Nat.add_sub_cancel, if_pos (show j < cb.length by omega)]
    split
    · exact_mod_cast hrise j (by omega)
    · have := hlt j (by omega)
      omega

/-- `W2` of the reconstruction weight: `(1024 / gap below + 1024 / gap above) << 16` (40_lsf.md R108). -/
def inverseGaps (cb : List Nat) (k : Nat) : Int :=
  shl (tdiv 1024 (cbBound cb (k + 1) - cbBound cb k) + tdiv 1024 (cbBound cb (k + 2) - cbBound cb (k + 1))) 16

theorem inverseGaps_eq (cb : List Nat) (k : Nat) : inverseGaps cb k =
    (1024 / (cbBound cb (k + 1) - cbBound cb k) + 1024 / (cbBound cb (k + 2) - cbBound cb (k + 1))) * 65536 := by
  rw [inverseGaps, tdiv, tdiv, Int.tdiv_eq_ediv_of_nonneg (by decide), Int.tdiv_eq_ediv_of_nonneg (by decide)]
  rfl

theorem tdiv_1024_bounds {g : Int} (hlo : 1 ≤ g) (hhi : g ≤ 256) : 4 ≤ tdiv 1024 g ∧ tdiv 1024 g ≤ 1024 := by
  rw [tdiv, Int.tdiv_eq_ediv_of_nonneg (by decide)]
  exact ⟨(Int.le_ediv_iff_mul_le (by omega)).mpr (by omega), Int.ediv_le_self _ (by decide)⟩

/-- Gaps of 1..256 give a logarithm of 20..28 (40_lsf.md R108). -/
theorem ilog_inverseGaps {d : Nat} {cb : List Nat} (h : cb1Wf d cb = true) {k : Nat} (hk : k < d) :
    20 ≤ ilog (inverseGaps cb k) ∧ ilog (inverseGaps cb k) ≤ 28 := by
  have hgap : ∀ j, j ≤ d → 4 ≤ tdiv 1024 (cbBound cb (j + 1) - cbBound cb j) ∧
      tdiv 1024 (cbBound cb (j + 1) - cbBound cb j) ≤ 1024 := by
    intro j hj
    have hlt := cbBound_lt h (by omega) hj
    have hlo := cbBound_mem h j
    have hhi := cbBound_mem h (j + 1)
    exact tdiv_1024_bounds (by omega) (by omega)
  have hbelow := hgap k (by omega)
  have habove : 4 ≤ tdiv 1024 (cbBound cb (k + 2) - cbBound cb (k + 1)) ∧
      tdiv 1024 (cbBound cb (k + 2) - cbBound cb (k + 1)) ≤ 1024 := hgap (k + 1) hk
  apply ilog_bounds <;> simp only [inverseGaps, shl] <;> omega

/-- `Y` of the reconstruction weight for the logarithm `i` (40_lsf.md R108). -/
def weightBase (i : Nat) : Int := asr (if i % 2 = 1 then 32768 else 46214) ((32 - i) / 2)

theorem one_le_weightBase {i : Nat} (hlo : 20 ≤ i) (hhi : i ≤ 28) : 1 ≤ weightBase i := by
  interval_cases i <;> decide

theorem weightQ9_eq (cb : List Nat) (k : Nat) : weightQ9 cb k =
    weightBase (ilog (inverseGaps cb k)) +
      asr (213 * (asr (inverseGaps cb k) (ilog (inverseGaps cb k) - 8) % 128) *
        weightBase (ilog (inverseGaps cb k))) 16 := rfl

/-- A logarithm of 20..28 makes the weight positive: what is added to `Y` is not negative (40_lsf.md R108). -/
theorem one_le_weightQ9 {cb : List Nat} {k : Nat} (hlo : 20 ≤ ilog (inverseGaps cb k))
    (hhi : ilog (inverseGaps cb k) ≤ 28) : 1 ≤ weightQ9 cb k := by
  have hbase := one_le_weightBase hlo hhi
  have hfrac : 0 ≤ asr (inverseGaps cb k) (ilog (inverseGaps cb k) - 8) % 128 := Int.emod_nonneg _ (by decide)
  rw [weightQ9_eq]
  exact hbase.trans (le_add_of_nonneg_right (Int.ediv_nonneg (by positivity) (by decide)))

end Sys2Proof.Machine
end

section
/-! PROOFS. LSF_STAB leaves stable vectors (40_lsf.md R110), and what the spacings say by position. -/

namespace Sys2Proof.Machine

/-- The minimum spacings position by position (40_lsf.md R114). -/
theorem spaced_iff {delta n : List Int} {d : Nat} (hlen : n.length = d) (hd : 0 < d) : Spaced delta n ↔
    delta.getD 0 0 ≤ n.getD 0 0 ∧
    (∀ k, 1 ≤ k → k < d → delta.getD k 0 ≤ n.getD k 0 - n.getD (k - 1) 0) ∧
    n.getD (d - 1) 0 ≤ 32768 - delta.getD d 0 := by
  subst hlen
  have hfirst : gapAt delta n 0 = n.getD 0 0 - delta.getD 0 0 := rfl
  have hmid : ∀ k, 1 ≤ k → k < n.length →
      gapAt delta n k = n.getD k 0 - (n.getD (k - 1) 0 + delta.getD k 0) :=
    fun k h1 hk => by rw [gapAt, if_neg (by omega), if_pos hk]
  have hlast : gapAt delta n n.length =
      32768 - (n.getD (n.length - 1) 0 + delta.getD n.length 0) := by
    rw [gapAt, if_neg (by omega), if_neg (lt_irrefl _)]
  constructor
  · intro h
    refine ⟨?_, fun k h1 hk => ?_, ?_⟩
    · have := hfirst ▸ h 0 (Nat.zero_le _)
      omega
    · have := hmid k h1 hk ▸ h k hk.le
      omega
    · have := hlast ▸ h n.length le_rfl
      omega
  · rintro ⟨h0, hk, hl⟩ i hi
    rcases Nat.eq_zero_or_pos i with rfl | hpos
    · omega
    · rcases Nat.lt_or_eq_of_le hi with hlt | rfl
      · have := hk i hpos hlt
        have := hmid i hpos hlt
        omega
      · omega

/-- The worst gap of a spaced vector is not negative, being one of its gaps. -/
theorem worstGap_nonneg {delta n : List Int} (h : Spaced delta n) : 0 ≤ (worstGap delta n).1 := by
  refine List.foldlRecOn (motive := fun best : Int × Nat => 0 ≤ best.1) _ _ (h 0 (Nat.zero_le _))
    fun best hbest i hi => ?_
  split
  · exact h i (by have := List.mem_range'_1.mp hi; omega)
  · exact hbest

theorem stabilise_of_spaced (u : Nat) {delta n : List Int} (h : Spaced delta n) : stabilise u delta n = n :=
  if_pos (worstGap_nonneg h)

/-- LSF_STAB stores the vector as it stabilised it. -/
theorem lsfStab_nlsf2 (s : State) {k : Nat} (hk : k < order s) :
    rdI (lsfStab s).work.nlsf2 k = (stabilisedNlsf s).getD k 0 := by
  obtain ⟨hlen, -⟩ := stabilisedNlsf_spaced s
  rw [lsfStab_work]
  exact rdI_storeFirst_of_fits (by decide) hlen (order_le s) hk
    (fits16_of_bounds fun x hx => (stabilisedNlsf_bounds s x hx).imp_left Int.le_of_lt)

/-- LSF_STAB leaves a spaced vector as it is (40_lsf.md R110). -/
theorem lsfStab_nlsf2_of_spaced {s : State}
    (h : Spaced (book s).ndeltaMinQ15 (firstI s.work.nlsf2 (order s))) : (lsfStab s).work.nlsf2 = s.work.nlsf2 := by
  rw [lsfStab_work, stabilisedNlsf, stabilise_of_spaced s.fresh h]
  exact storeFirst_firstI s.fresh _ _ (order_le s) (by decide)

end Sys2Proof.Machine
end

section
/-! PROOFS. The factor and the blend of LSF_INTERP (40_lsf.md R112, R115). -/

namespace Sys2Proof.Machine

/-- A first frame blends nothing (40_lsf.md R112). -/
theorem interpolates_of_first {s : State} (h : s.frame.first = true) : interpolates s = false := by
  rw [interpolates, h]
  rfl

/-- Where the factor is not read it is W_MAX, and the cursor is untouched. -/
theorem interpFactor_of_unread {s : State} (hfirst : s.frame.first = true)
    (hread : (params s).interpReadFirst = false) : interpFactor s = ((params s).wMax, s.cursor) := by
  simp [interpFactor, hfirst, hread]

/-- Where the factor is read, one symbol is, which a first frame overrides by W_MAX. -/
theorem interpFactor_of_read {s : State} (h : s.frame.first = false ∨ (params s).interpReadFirst = true) :
    interpFactor s = (if s.frame.first then (params s).wMax else (sym (params s).interpIcdf s.cursor).1,
      (sym (params s).interpIcdf s.cursor).2) := by
  rcases Bool.eq_false_or_eq_true s.frame.first with hfirst | hfirst
  · simp [interpFactor, hfirst, h.resolve_left (by simp [hfirst])]
  · simp [interpFactor, hfirst]

/-- A frame that blends is no first one, and its factor is the symbol (40_lsf.md R112). -/
theorem interpFactor_of_interpolates {s : State} (h : interpolates s = true) :
    interpFactor s = sym (params s).interpIcdf s.cursor := by
  have hfirst : s.frame.first = false := Bool.eq_false_iff.mpr fun hf => by simp [interpolates_of_first hf] at h
  rw [interpFactor, if_neg (by simp [hfirst])]

/-- LSF_INTERP blends by the symbol, on no first frame (40_lsf.md R112). -/
theorem interpolates_eq (s : State) : interpolates s =
    (!s.frame.first && decide ((sym (params s).interpIcdf s.cursor).1 < (params s).wMax)) := by
  rcases Bool.eq_false_or_eq_true s.frame.first with hfirst | hfirst <;> simp [interpolates, interpFactor, hfirst]

theorem lsfInterp_wQ2 (s : State) : (lsfInterp s).work.wQ2.toNat = (interpFactor s).1 := by
  have hle := interpFactor_le s
  obtain ⟨-, -, -, -, -, hmax, -⟩ := params_wf s
  exact storeU_toNat s.fresh (by omega)

/-- LSF_INTERP writes its three elements, the cursor, PHASE, DONE and the counter of free values alone. -/
theorem lsfInterp_frame {s : State} {c : Cursor} (h : (interpFactor s).2 = c) :
    complete (lsfInterp s) = { s with
      work := { s.work with
        wQ2 := (lsfInterp s).work.wQ2, interp := (lsfInterp s).work.interp, nlsf1 := (lsfInterp s).work.nlsf1 }
      cursor := c, phase := s.phase ||| 0x20, done := true, fresh := (lsfInterp s).fresh } := by
  subst h
  rfl

@[simp] theorem blended_length (s : State) (w : Nat) (interp : Bool) : (blended s w interp).length = order s := by
  simp [blended]

theorem blended_getD (s : State) (w : Nat) (interp : Bool) {k : Nat} (hk : k < order s) :
    (blended s w interp).getD k 0 =
      if interp then blend w (rdI s.dec.prevNlsf k) (rdI s.work.nlsf2 k) else rdI s.work.nlsf2 k := by
  simp [blended, hk]

/-- Without a blend n1 is n2, element by element, and keeps what is above the order (40_lsf.md R112). -/
theorem lsfInterp_nlsf1_of_not_interpolates {s : State} (h : interpolates s = false) (k : Nat) :
    rd (lsfInterp s).work.nlsf1 k 0 = if k < order s then rd s.work.nlsf2 k 0 else rd s.work.nlsf1 k 0 := by
  rw [lsfInterp_work, h, rd_storeFirst _ _ _ k (by simpa using order_le s), blended_length]
  split
  · next hk =>
    rw [blended_getD s _ _ hk, if_neg (by decide)]
    exact storeI_self s.fresh _ (by decide)
  · rfl

/-- With W_MAX at most 4 n1 holds the blend as it is (40_lsf.md R112). -/
theorem lsfInterp_nlsf1 {s : State} (hmax : (params s).wMax ≤ 4)
    (hn : ∀ k, 0 ≤ rdI s.dec.prevNlsf k ∧ 0 ≤ rdI s.work.nlsf2 k) {k : Nat} (hk : k < order s) :
    rdI (lsfInterp s).work.nlsf1 k = if interpolates s then
      blend (interpFactor s).1 (rdI s.dec.prevNlsf k) (rdI s.work.nlsf2 k) else rdI s.work.nlsf2 k := by
  rw [← blended_getD s _ _ hk]
  exact rdI_storeFirst_of_fits (by decide) (blended_length s _ _) (order_le s) hk
    (fits16_of_bounds (blended_bounds hmax fun k _ => (hn k).symm))

theorem lsfInterp_nlsf1_of_ge (s : State) {k : Nat} (hk : order s ≤ k) :
    rd (lsfInterp s).work.nlsf1 k 0 = rd s.work.nlsf1 k 0 :=
  rd_storeFirst_of_ge (blended_length s _ _) (order_le s) hk

/-- A blend with a factor of at most 4 rises with its ends: four times it rises by at least 4 (40_lsf.md R115). -/
theorem blend_lt {w : Nat} {n0 n0' n2 n2' : Int} (hw : w ≤ 4) (h0 : n0 < n0') (h2 : n2 < n2') :
    blend w n0 n2 < blend w n0' n2' := by
  simp only [blend, asr]
  interval_cases w <;> omega

end Sys2Proof.Machine
end

section
/-! PROOFS. The statements of 40_lsf.md, settled. -/

open Sys2Proof Sys2Proof.Machine

/-- Settles O23: the stage-1 table is an ICDF of as many entries as there are vectors, at most 256. -/
theorem lsfS1StoresOneAnswer : Obligations.LsfS1StoresOneAnswer := by
  intro s hf hs1
  obtain ⟨hans, hlt, hserved, -⟩ := sym_spec (stage1Table_wf s) s.cursor
  obtain ⟨hmax, -⟩ := params_wf s
  exact ⟨_, _, command_after lsfS1 hf hs1, hans, hlt, storeU_toNat s.fresh (by omega), hserved, rfl⟩

/-- Settles O24, position by position. -/
theorem lsfS2FollowsTheAnswers : Obligations.LsfS2FollowsTheAnswers := by
  refine ⟨fun s ans rest hs1 hs2 hlen hans hc => ?_, fun s hs1 hs2 => ?_⟩
  · obtain ⟨hdrawn, hrest⟩ := lsfS2_of_script hlen hans hc
    refine ⟨_, command_after lsfS2 hs1 hs2, fun k hk => ?_, fun k hk => ?_, hrest, rfl⟩
    · rw [complete_work, lsfS2_i2 s hk, hdrawn]
      have hk' : k < order s := hk
      simp [hk', extendedIndex]
    · exact rd_storeFirst_of_ge (drawnIndices_length s) (order_le s) hk
  · obtain ⟨hlo, hhi⟩ := lsfS2_served s
    refine ⟨_, command_after lsfS2 hs1 hs2, fun k hk => ?_, hlo, hhi⟩
    rw [complete_work, lsfS2_i2 s hk]
    exact getD_of_forall (drawnIndices_bounds_of_any s) (hk.trans_eq (drawnIndices_length s).symm)

/-- Settles O25: the residuals stay in the range of their elements, so that each is held as computed. -/
theorem lsfReconFollowsTheFormula : Obligations.LsfReconFollowsTheFormula := by
  intro s hs2 hrecon b d cb hq hq'
  obtain ⟨hfits, hrec⟩ := frameResiduals_spec (s := s) ⟨hq, hq'⟩
  refine ⟨_, command_after lsfRecon hs2 hrecon, fun k (hk : k < order s) => ⟨?_, ?_⟩,
    fun k hk => ⟨?_, ?_⟩, rfl⟩
  · have hlen := frameResiduals_length s
    rw [complete_work, lsfRecon_resQ10 hfits hk, hrec k hk, predictedResidual, firstI_getD _ _ _ hk]
    refine congrArg (· + _) ?_
    split
    · next h =>
      rw [lsfRecon_resQ10 hfits h]
      rfl
    · next h =>
      rw [List.getD_eq_default _ _ (hlen.trans_le (Nat.le_of_not_lt h)), Int.zero_mul]
      rfl
  · rw [complete_work, lsfRecon_nlsf2 s hk, lsfRecon_resQ10 hfits hk]
    rfl
  · exact rd_storeFirst_of_ge (frameResiduals_length s) (order_le s) hk
  · exact rd_storeFirst_of_ge (frameRawNlsf_length s) (order_le s) hk

/-- Settles O26: the gaps of a stage-1 vector lie in 1..256. -/
theorem reconstructionWeightsArePositive : Obligations.ReconstructionWeightsArePositive := by
  intro tables c i k hi hk cb w2
  have h := classBook_wf tables c
  simp only [bookWf, Bool.and_eq_true] at h
  obtain ⟨⟨⟨⟨⟨⟨⟨⟨-, -⟩, hcb⟩, -⟩, -⟩, -⟩, -⟩, -⟩, -⟩ := h
  have hwf : cb1Wf (dOfClass c) cb = true := rowsWf_getD hcb i [] hi
  obtain ⟨hlo, hhi⟩ := ilog_inverseGaps hwf hk
  have hw2 : inverseGaps cb k = w2 := inverseGaps_eq cb k
  exact ⟨hw2 ▸ hlo, hw2 ▸ hhi, one_le_weightQ9 hlo hhi⟩

/-- Settles O27: the fallback and a pass that finds no gap both leave a spaced vector, and a spaced vector has no
gap to repair. -/
theorem lsfStabKeepsMinimumSpacings : Obligations.LsfStabKeepsMinimumSpacings := by
  refine ⟨fun s hrecon hstab => ?_, fun s hrecon hstab => ?_⟩
  · obtain ⟨hlen, hspaced⟩ := stabilisedNlsf_spaced s
    have hd := order_pos s
    obtain ⟨hfirst, hmid, hlast⟩ := (spaced_iff hlen hd).mp hspaced
    refine ⟨_, command_after lsfStab hrecon hstab, ?_, fun k h1 hk => ?_, ?_, fun k hk => ?_, rfl⟩
    · exact hfirst.trans_eq (lsfStab_nlsf2 s hd).symm
    · have hδ := ndeltaWf_getD (spacings_wf s) (Nat.le_of_lt hk)
      have hgap := hmid k h1 hk
      rw [complete_work, lsfStab_nlsf2 s hk, lsfStab_nlsf2 s (Nat.lt_of_le_of_lt (Nat.sub_le k 1) hk)]
      exact ⟨hgap, by omega⟩
    · exact (lsfStab_nlsf2 s (Nat.sub_lt hd Nat.one_pos)).trans_le hlast
    · exact rd_storeFirst_of_ge hlen (order_le s) hk
  · intro delta d h0 hk hd
    have hread : ∀ k, k < d → (firstI s.work.nlsf2 d).getD k 0 = rdI s.work.nlsf2 k :=
      fun k hk => firstI_getD _ d k hk
    have hpos : 0 < d := order_pos s
    refine ⟨_, command_after lsfStab hrecon hstab,
      lsfStab_nlsf2_of_spaced ((spaced_iff (firstI_length _ _) hpos).mpr ⟨?_, fun k h1 hk' => ?_, ?_⟩)⟩
    · rwa [hread 0 hpos]
    · rw [hread k hk', hread (k - 1) (by omega)]
      exact hk k h1 hk'
    · rwa [hread (d - 1) (by omega)]

/-- Settles O28: the factor is W_MAX without a request, which does not blend. -/
theorem firstFramesDoNotInterpolate : Obligations.FirstFramesDoNotInterpolate := by
  intro s hstab hinterp hfirst hread
  have hfactor := interpFactor_of_unread hfirst hread
  have hblend := interpolates_of_first hfirst
  exact ⟨_, command_after lsfInterp hstab hinterp, (lsfInterp_wQ2 s).trans (congrArg Prod.fst hfactor), hblend,
    lsfInterp_nlsf1_of_not_interpolates hblend, lsfInterp_frame (congrArg Prod.snd hfactor)⟩

/-- Settles O29: one symbol is read, which a first frame overrides. -/
theorem lsfInterpBlendsByTheFactor : Obligations.LsfInterpBlendsByTheFactor := by
  intro s hstab hinterp hread hmax hn
  obtain ⟨-, -, -, -, hicdf, -⟩ := params_wf s
  obtain ⟨hans, -, hserved, -⟩ := sym_spec hicdf s.cursor
  have hfactor := interpFactor_of_read hread
  have hcursor := congrArg Prod.snd hfactor
  refine ⟨_, _, command_after lsfInterp hstab hinterp, hans, ?_,
    (lsfInterp_wQ2 s).trans (congrArg Prod.fst hfactor), interpolates_eq s,
    fun k hk => ?_, fun k hk => lsfInterp_nlsf1_of_ge s hk, lsfInterp_frame rfl⟩
  · exact (congrArg Cursor.served hcursor).trans hserved
  · rw [complete_work, lsfInterp_nlsf1 hmax hn hk]
    refine if_ctx_congr Iff.rfl (fun h => ?_) fun _ => rfl
    rw [interpFactor_of_interpolates h]
    rfl

/-- Settles O30: n1 is n2, or a blend, which rises with its ends. -/
theorem interpolationKeepsOrder : Obligations.InterpolationKeepsOrder := by
  intro s hstab hinterp hmax hn h0 h2
  refine ⟨_, command_after lsfInterp hstab hinterp, fun k hk => ?_⟩
  rw [complete_work, lsfInterp_nlsf1 hmax hn hk, lsfInterp_nlsf1 hmax hn (Nat.lt_of_succ_lt hk)]
  split
  · exact blend_lt ((interpFactor_le s).trans hmax) (h0 k hk) (h2 k hk)
  · exact h2 k hk

end

section
/-! PROOFS. The cosines and the coefficients of LPC_CONVERT (41_lpc.md R141, R142), and the expansion factor of
LPC_RANGE (41_lpc.md R144). -/

namespace Sys2Proof.Machine

theorem cosAt_bounds {u : Nat} {cos : List Int} {i : Int} (hcos : ∀ x ∈ cos, -4096 ≤ x ∧ x ≤ 4096) (h0 : 0 ≤ i)
    (hi : i < cos.length) : -4096 ≤ cosAt u cos i ∧ cosAt u cos i ≤ 4096 := by
  rw [cosAt, if_neg (Int.not_lt.mpr h0)]
  exact getD_of_forall hcos (by omega)

/-- An entry weighted `256 - f` and the next weighted `f` give a value between the two. -/
theorem cosineQ17_eq (u : Nat) (cos : List Int) (n : Int) : cosineQ17 u cos n =
    (cosAt u cos (n / 256) * (256 - n % 256) + cosAt u cos (n / 256 + 1) * (n % 256) + 4) / 8 := by
  simp only [cosineQ17, asr]
  norm_num
  ring_nf

theorem cosineQ17_bounds {u : Nat} {cos : List Int} {n : Int} (hlen : cos.length = 129)
    (hcos : ∀ x ∈ cos, -4096 ≤ x ∧ x ≤ 4096) (h0 : 0 ≤ n) (hn : n ≤ 32767) :
    -131072 ≤ cosineQ17 u cos n ∧ cosineQ17 u cos n ≤ 131072 := by
  obtain ⟨hlo, hhi⟩ := cosAt_bounds (u := u) hcos (i := n / 256) (by omega) (by omega)
  obtain ⟨hlo', hhi'⟩ := cosAt_bounds (u := u) hcos (i := n / 256 + 1) (by omega) (by omega)
  have hf : 0 ≤ n % 256 := by omega
  have hf' : 0 ≤ 256 - n % 256 := by omega
  have h1 := mul_le_mul_of_nonneg_right hlo hf'
  have h2 := mul_le_mul_of_nonneg_right hhi hf'
  have h3 := mul_le_mul_of_nonneg_right hlo' hf
  have h4 := mul_le_mul_of_nonneg_right hhi' hf
  rw [cosineQ17_eq]
  omega

/-- The factor is 65470 less a quotient of nonnegative numbers, which is largest for index 0 and the largest magnitude
that counts (41_lpc.md R144). -/
theorem rangeFactor_bounds {m : Int} {idx : Nat} (hm : 32767 < m) :
    13041 ≤ rangeFactor m idx ∧ rangeFactor m idx ≤ 65470 := by
  have hmono : min m 163838 / 4 ≤ min m 163838 * ((idx : Int) + 1) / 4 :=
    Int.ediv_le_ediv (by decide) (le_mul_of_one_le_right (by omega) (by omega))
  have hquot : (min m 163838 - 32767) * 16384 < 52430 * (min m 163838 / 4) := by omega
  have hnum : 0 ≤ (min m 163838 - 32767) * 16384 := by omega
  have hdiv : 0 < min m 163838 * ((idx : Int) + 1) / 4 := by omega
  have hlt := Int.ediv_lt_of_lt_mul hdiv (a := (min m 163838 - 32767) * 16384) (b := 52430) (by omega)
  have hpos := Int.ediv_nonneg hnum hdiv.le
  simp only [rangeFactor, tdiv, shl, asr]
  norm_num only
  rw [Int.tdiv_eq_ediv_of_nonneg hnum]
  constructor <;> omega

/-- The order of the filter is even: half of it for each polynomial. -/
theorem order_even (s : State) : order s = 2 * (order s / 2) := by
  simp only [order, dLpc, dOfClass]
  split <;> rfl

@[simp] theorem nlsfOfSet_length (s : State) (set : Fin 2) : (nlsfOfSet s set).length = order s := firstI_length _ _

@[simp] theorem lpcOfNlsf_length (u : Nat) (cos : List Int) (ord : List Nat) (n : List Int) :
    (lpcOfNlsf u cos ord n).length = n.length := by
  simp [lpcOfNlsf]

/-- The coefficients in the order of their polynomials: the sum of both below, their difference above
(41_lpc.md R141). -/
theorem lpcOfNlsf_getD (u : Nat) (cos : List Int) (ord : List Nat) {n : List Int} {d k : Nat} (hlen : n.length = d)
    (heven : d = 2 * (d / 2)) (hk : k < d / 2) :
    let p := poly (placedCosines u cos ord n) 0 (d / 2)
    let q := poly (placedCosines u cos ord n) 1 (d / 2)
    (lpcOfNlsf u cos ord n).getD k 0 =
      -(q.getD (k + 1) 0 - q.getD k 0) - (p.getD (k + 1) 0 + p.getD k 0) ∧
    (lpcOfNlsf u cos ord n).getD (d - k - 1) 0 =
      (q.getD (k + 1) 0 - q.getD k 0) - (p.getD (k + 1) 0 + p.getD k 0) := by
  subst hlen
  have hlow : k < n.length := by omega
  have hhigh : n.length - k - 1 < n.length := by omega
  have hmirror : n.length - 1 - (n.length - k - 1) = k := by omega
  have hupper : ¬n.length - k - 1 < n.length / 2 := by omega
  constructor
  · simp [lpcOfNlsf, hlow, hk]
  · simp [lpcOfNlsf, hhigh, hupper, hmirror]

end Sys2Proof.Machine
end

section
/-! PROOFS. The coefficient elements of one set replaced (41_lpc.md R141, R144, R147). -/

namespace Sys2Proof.Machine

theorem fits32 {x : Int} (h : -2147483648 ≤ x) (h' : x ≤ 2147483647) : Fits 32 x := by
  constructor <;> norm_num <;> omega

/-- The first elements of a set replaced: of S.A32_Q17 or of S.A_Q12. -/
def putSet {w : Nat} (n : Nat) (v : Vector (Vector (BitVec w) 16) 2) (set : Fin 2) (xs : List Int) :
    Vector (Vector (BitVec w) 16) 2 := put v set (storeFirst n v[set] xs)

theorem putA32_eq_putSet (s : State) (set : Fin 2) (xs : List Int) :
    putA32 s set xs = putSet s.fresh s.work.a32 set xs := rfl

theorem putAQ12_eq_putSet (s : State) (set : Fin 2) (xs : List Int) :
    putAQ12 s set xs = putSet s.fresh s.work.aQ12 set xs := rfl

section
variable {w n d k : Nat} {v : Vector (Vector (BitVec w) 16) 2} {set : Fin 2} {xs : List Int}

theorem putSet_same : (putSet n v set xs)[set] = storeFirst n v[set] xs := by
  simp [putSet, put_eq_set v set set.isLt]

theorem putSet_other {other : Fin 2} (h : other ≠ set) : (putSet n v set xs)[other] = v[other] := by
  simp [putSet, put_eq_set v set set.isLt, Fin.val_ne_of_ne h.symm]

theorem rdI_putSet {a : Int} (hw : 0 < w) (hlen : xs.length = d) (hd : d ≤ 16) (hk : k < d)
    (ha : xs.getD k 0 = a) (h : Fits w a) : rdI (putSet n v set xs)[set] k = a := by
  subst hlen ha
  obtain ⟨hlo, hhi⟩ := h
  rw [putSet_same, rdI_storeFirst n v[set] xs k hd hk hw hlo hhi]

theorem rd_putSet_of_ge (hlen : xs.length = d) (hd : d ≤ 16) (hk : d ≤ k) :
    rd (putSet n v set xs)[set] k 0 = rd v[set] k 0 := by
  rw [putSet_same, rd_storeFirst_of_ge hlen hd hk]

/-- A set whose first elements are stored again as they are is as before. -/
theorem putSet_firstI (hw : 0 < w) (hd : d ≤ 16) : putSet n v set (firstI v[set] d) = v := by
  rw [putSet, storeFirst_firstI n v[set] d hd hw, put_eq_set v set set.isLt]
  exact Vector.set_getElem_self set.isLt

end

/-! ### Coefficients of a set -/

@[simp] theorem a32Of_length (s : State) (set : Fin 2) : (a32Of s set).length = order s := firstI_length _ _

@[simp] theorem aQ12Of_length (s : State) (set : Fin 2) : (aQ12Of s set).length = order s := firstI_length _ _

theorem map_getD_range_of_length {xs : List Int} {d : Nat} (h : xs.length = d) :
    (List.range d).map (xs.getD · 0) = xs := by
  subst h
  exact map_getD_range xs 0

/-- What an element holds is in its range. -/
theorem firstI_fits {m : Nat} (v : Vector (BitVec 16) m) (d : Nat) : ∀ x ∈ firstI v d, Fits 16 x := by
  intro x hx
  obtain ⟨k, -, rfl⟩ := List.mem_map.mp hx
  exact ⟨BitVec.le_toInt _, BitVec.toInt_lt⟩

/-- A Q17 coefficient that fits the Q12 element when it is rounded. -/
def RoundsToQ12 (x : Int) : Prop := -1048592 ≤ x ∧ x ≤ 1048559

theorem RoundsToQ12.fits32 {x : Int} (h : RoundsToQ12 x) : Fits 32 x := by
  obtain ⟨hlo, hhi⟩ := h
  exact Machine.fits32 (by omega) (by omega)

theorem RoundsToQ12.fits16 {x : Int} (h : RoundsToQ12 x) : Fits 16 (toQ12 x) := by
  obtain ⟨hlo, hhi⟩ := h
  apply Machine.fits16 <;> simp only [toQ12, asr] <;> norm_num <;> omega

/-- Rounding a multiple of 32 loses nothing. -/
theorem toQ12_shl (q : Int) : toQ12 (shl q 5) = q := by
  simp only [toQ12, asr, shl]
  norm_num
  omega

/-- Outside the list both sides are 0. -/
theorem getD_map_of_zero {f : Int → Int} (h0 : f 0 = 0) (a : List Int) (k : Nat) :
    (a.map f).getD k 0 = f (a.getD k 0) := by
  have h := List.getD_map (n := k) a 0 f
  rwa [h0] at h

theorem map_toQ12_getD (a : List Int) (k : Nat) : (a.map toQ12).getD k 0 = toQ12 (a.getD k 0) :=
  getD_map_of_zero (by decide) a k

end Sys2Proof.Machine
end
section
/-! PROOFS. Bandwidth expansion (41_lpc.md R145), the largest magnitude of a vector (41_lpc.md R144), and loops of a
bounded number of rounds. -/

namespace Sys2Proof.Machine

/-! ### Bandwidth expansion -/

theorem bwExpandFrom_getD (sc : Int) (j : Nat) (a : List Int) (k : Nat) :
    (bwExpandFrom sc (chirpAt sc j) a).getD k 0 = chirpAt sc (j + k) * a.getD k 0 / 65536 := by
  induction a generalizing j k with
  | nil => simp [bwExpandFrom]
  | cons x a ih =>
    cases k with
    | zero => rfl
    | succ k =>
      have h := ih (j + 1) k
      rwa [Nat.add_right_comm] at h

theorem bwExpand_expands (d : Nat) (sc : Int) (a : List Int) :
    Expands d sc (a.getD · 0) ((bwExpand a sc).getD · 0) := by
  intro k _
  have h := bwExpandFrom_getD sc 0 a k
  rwa [Nat.zero_add] at h

@[simp] theorem bwExpandFrom_length (sc chirp : Int) (a : List Int) : (bwExpandFrom sc chirp a).length = a.length := by
  induction a generalizing chirp with
  | nil => rfl
  | cons x a ih => simp [bwExpandFrom, ih]

@[simp] theorem bwExpand_length (a : List Int) (sc : Int) : (bwExpand a sc).length = a.length :=
  bwExpandFrom_length sc sc a

/-- A factor below 1 leaves a value between bounds around 0. -/
theorem mul_ediv_bounds {c x lo hi : Int} (hc : 0 ≤ c) (hc' : c ≤ 65536) (hlo : lo ≤ 0) (hhi : 0 ≤ hi)
    (hx : lo ≤ x ∧ x ≤ hi) : lo ≤ c * x / 65536 ∧ c * x / 65536 ≤ hi := by
  constructor
  · exact Int.le_ediv_of_mul_le (by decide) (by nlinarith)
  · exact Int.ediv_le_of_le_mul (by decide) (by nlinarith)

theorem nextChirp_bounds {c sc : Int} (hc : 0 ≤ c ∧ c ≤ 65535) (hsc : 0 ≤ sc ∧ sc ≤ 65535) :
    0 ≤ asr (c * sc + 32768) 16 ∧ asr (c * sc + 32768) 16 ≤ 65535 := by
  obtain ⟨hc, hc'⟩ := hc
  obtain ⟨hsc, hsc'⟩ := hsc
  have hpos := mul_nonneg hc hsc
  have hle := mul_le_mul hc' hsc' hsc (by decide)
  simp only [asr]
  constructor <;> norm_num <;> omega

theorem bwExpandFrom_bounds {sc lo hi : Int} (hsc : 0 ≤ sc ∧ sc ≤ 65535) (hlo : lo ≤ 0) (hhi : 0 ≤ hi) {chirp : Int}
    (hc : 0 ≤ chirp ∧ chirp ≤ 65535) {a : List Int} (ha : ∀ x ∈ a, lo ≤ x ∧ x ≤ hi) :
    ∀ x ∈ bwExpandFrom sc chirp a, lo ≤ x ∧ x ≤ hi := by
  induction a generalizing chirp with
  | nil => simp [bwExpandFrom]
  | cons y a ih =>
    obtain ⟨hy, ha⟩ := List.forall_mem_cons.mp ha
    refine List.forall_mem_cons.mpr ⟨?_, ih (nextChirp_bounds hc hsc) ha⟩
    exact mul_ediv_bounds hc.1 (hc.2.trans (by decide)) hlo hhi hy

/-- Expansion by a factor below 1 keeps bounds around 0. -/
theorem bwExpand_bounds {sc lo hi : Int} (hsc : 0 ≤ sc ∧ sc ≤ 65535) (hlo : lo ≤ 0) (hhi : 0 ≤ hi) {a : List Int}
    (ha : ∀ x ∈ a, lo ≤ x ∧ x ≤ hi) : ∀ x ∈ bwExpand a sc, lo ≤ x ∧ x ≤ hi :=
  bwExpandFrom_bounds hsc hlo hhi hsc ha

/-- With the factor 0 every coefficient becomes 0 (41_lpc.md R145). -/
theorem bwExpand_zero (a : List Int) : bwExpand a 0 = List.replicate a.length 0 := by
  unfold bwExpand
  induction a with
  | nil => rfl
  | cons x a ih =>
    have hnext : asr (0 * 0 + 32768) 16 = 0 := by decide
    rw [bwExpandFrom, hnext, ih, List.length_cons, List.replicate_succ, Int.zero_mul]
    rfl

/-! ### The largest magnitude -/

theorem maxAbs_append_singleton (a : List Int) (x : Int) : maxAbs (a ++ [x]) =
    if (maxAbs a).1 < absI x then (absI x, a.length) else maxAbs a := by
  rw [maxAbs, List.zipIdx_append, List.foldl_append, Nat.zero_add]
  rfl

/-- `m` is the largest magnitude of `a` and `idx` its first index, where a coefficient is not 0 (41_lpc.md R144). -/
structure LargestAt (a : List Int) (m : Int) (idx : Nat) : Prop where
  nonneg : 0 ≤ m
  le : ∀ x ∈ a, absI x ≤ m
  attained : 0 < m → idx < a.length ∧ absI (a.getD idx 0) = m ∧ ∀ k, k < idx → absI (a.getD k 0) < m

theorem maxAbs_largestAt (a : List Int) : LargestAt a (maxAbs a).1 (maxAbs a).2 := by
  induction a using List.reverseRecOn with
  | nil => exact ⟨le_refl 0, fun _ h => absurd h List.not_mem_nil, fun h => absurd h (lt_irrefl 0)⟩
  | append_singleton a x ih =>
    obtain ⟨hnonneg, hle, hattained⟩ := ih
    have hold : ∀ k, k < a.length → (a ++ [x]).getD k 0 = a.getD k 0 := fun k hk => List.getD_append _ _ _ _ hk
    have hlen : (a ++ [x]).length = a.length + 1 := List.length_append
    rw [maxAbs_append_singleton]
    split
    · next hlt =>
      have hlt' : ∀ y ∈ a, absI y < absI x := fun y hy => (hle y hy).trans_lt hlt
      refine ⟨hnonneg.trans hlt.le, List.forall_mem_append.mpr ⟨fun y hy => (hlt' y hy).le, by simp⟩,
        fun _ => ⟨by simp, by simp, fun k hk => ?_⟩⟩
      rw [hold k hk]
      exact getD_of_forall hlt' hk
    · next hge =>
      refine ⟨hnonneg, List.forall_mem_append.mpr ⟨hle, by simpa using hge⟩, fun hpos => ?_⟩
      obtain ⟨hidx, hval, hfirst⟩ := hattained hpos
      refine ⟨by omega, by rwa [hold _ hidx], fun k hk => ?_⟩
      rw [hold k (hk.trans hidx)]
      exact hfirst k hk

/-! ### Rounds -/

/-- A loop that begins with round `i` and may make `left` rounds ends before round `n`: no round before `n` meets the
stop condition, and `n` does where rounds are left. -/
structure EndsBefore (stop : Nat → Prop) (i left n : Nat) : Prop where
  ge : i ≤ n
  le : n ≤ i + left
  before : ∀ r, i ≤ r → r < n → ¬stop r
  stops : n < i + left → stop n

/-- A loop of rounds, `out left i` what it gives when it ends before round `i` with `left` rounds left. -/
theorem exists_endsBefore {β : Type} {stop : Nat → Prop} {loop out : Nat → Nat → β}
    (hnone : ∀ i, loop 0 i = out 0 i) (hstop : ∀ left i, stop i → loop (left + 1) i = out (left + 1) i)
    (hround : ∀ left i, ¬stop i → loop (left + 1) i = loop left (i + 1)) (left i : Nat) :
    ∃ n, EndsBefore stop i left n ∧ loop left i = out (i + left - n) n := by
  induction left generalizing i with
  | zero =>
    refine ⟨i, ⟨le_refl i, le_refl i, fun r hr hrn => absurd hrn (Nat.not_lt.mpr hr), fun h => absurd h (lt_irrefl i)⟩,
      ?_⟩
    rw [hnone, Nat.add_zero, Nat.sub_self]
  | succ left ih =>
    by_cases h : stop i
    · refine ⟨i, ⟨le_refl i, Nat.le_add_right i _, fun r hr hrn => absurd hrn (Nat.not_lt.mpr hr), fun _ => h⟩, ?_⟩
      rw [hstop left i h, Nat.add_sub_cancel_left]
    · obtain ⟨n, ⟨hge, hle, hbefore, hstops⟩, heq⟩ := ih (i + 1)
      rw [Nat.add_right_comm] at hle hstops heq
      refine ⟨n, ⟨Nat.le_of_succ_le hge, hle, fun r hr hrn => ?_, hstops⟩, (hround left i h).trans heq⟩
      rcases Nat.eq_or_lt_of_le hr with rfl | hr
      · exact h
      · exact hbefore r hr hrn

end Sys2Proof.Machine
end

section
/-! PROOFS. The rounds of LPC_RANGE (41_lpc.md R144). -/

namespace Sys2Proof.Machine

/-- The vector after `r` expansions of LPC_RANGE, whether or not the loop makes them. -/
def rangeVec (a : List Int) : Nat → List Int
  | 0 => a
  | r + 1 =>
    bwExpand (rangeVec a r) (rangeFactor (asr ((maxAbs (rangeVec a r)).1 + 16) 5) (maxAbs (rangeVec a r)).2)

@[simp] theorem rangeVec_length (a : List Int) (r : Nat) : (rangeVec a r).length = a.length := by
  induction r with
  | zero => rfl
  | succ r ih => rw [rangeVec, bwExpand_length, ih]

/-- A coefficient of the vector does not fit Q12 (41_lpc.md R144). -/
def TooLarge (a : List Int) : Prop := 32767 < asr ((maxAbs a).1 + 16) 5

theorem tooLarge_iff (a : List Int) : TooLarge a ↔ 1048559 < (maxAbs a).1 := by
  simp only [TooLarge, asr]
  norm_num
  omega

theorem bounds_of_not_tooLarge {a : List Int} (h : ¬TooLarge a) : ∀ x ∈ a, -1048559 ≤ x ∧ x ≤ 1048559 := by
  intro x hx
  have hle := (maxAbs_largestAt a).le x hx
  rw [tooLarge_iff] at h
  rw [absI_eq_natAbs] at hle
  omega

theorem not_tooLarge_of_bounds {a : List Int} (h : ∀ k, k < a.length → -1048559 ≤ a.getD k 0 ∧ a.getD k 0 ≤ 1048559) :
    ¬TooLarge a := by
  rw [tooLarge_iff]
  intro hlarge
  obtain ⟨hidx, hval, -⟩ := (maxAbs_largestAt a).attained (by omega)
  have hbounds := h _ hidx
  rw [absI_eq_natAbs] at hval
  omega

/-- The loop expands up to the first vector that fits, or ten times. -/
theorem rangeRounds_eq (a : List Int) : ∃ n, EndsBefore (fun r => ¬TooLarge (rangeVec a r)) 0 10 n ∧
    rangeRounds 10 a = (rangeVec a n, decide (n = 10)) := by
  obtain ⟨n, hn, heq⟩ := exists_endsBefore (stop := fun r => ¬TooLarge (rangeVec a r))
    (loop := fun left r => rangeRounds left (rangeVec a r))
    (out := fun left r => (rangeVec a r, decide (left = 0))) (fun _ => rfl)
    (fun _ _ h => if_pos (Int.not_lt.mp h)) (fun _ _ h => if_neg (Int.not_le.mpr (not_not.mp h))) 10 0
  refine ⟨n, hn, heq.trans ?_⟩
  have hle := hn.le
  simp only [Prod.mk.injEq, decide_eq_decide, true_and]
  omega

/-- A round of the loop is one expansion by the factor of the largest magnitude and its first index
(41_lpc.md R144). -/
theorem rangeVec_rangeRound {a : List Int} {r d : Nat} (hlen : a.length = d) (h : TooLarge (rangeVec a r)) :
    RangeRound d ((rangeVec a r).getD · 0) ((rangeVec a (r + 1)).getD · 0) := by
  obtain ⟨-, hle, hattained⟩ := maxAbs_largestAt (rangeVec a r)
  have hlarge := (tooLarge_iff _).mp h
  obtain ⟨hidx, hval, hfirst⟩ := hattained (by omega)
  rw [rangeVec_length, hlen] at hidx
  refine ⟨_, hidx, fun k hk => ?_, fun k hk => ?_, ?_⟩ <;> dsimp only <;> rw [hval]
  · exact getD_of_forall hle (by rwa [rangeVec_length, hlen])
  · exact hfirst k hk
  · exact ⟨by omega, bwExpand_expands d _ _⟩

/-- The Q12 vector after ten expansions: rounded and saturated (41_lpc.md R144). -/
def saturated (a : List Int) : List Int := a.map fun x => clampI (-32768) (toQ12 x) 32767

theorem rangeLimit_eq (a : List Int) : ∃ n, EndsBefore (fun r => ¬TooLarge (rangeVec a r)) 0 10 n ∧
    (n < 10 → rangeLimit a = (rangeVec a n, (rangeVec a n).map toQ12)) ∧
    (n = 10 → rangeLimit a = ((saturated (rangeVec a 10)).map (shl · 5), saturated (rangeVec a 10))) := by
  obtain ⟨n, hends, heq⟩ := rangeRounds_eq a
  refine ⟨n, hends, fun h => ?_, fun h => ?_⟩
  · simp [rangeLimit, heq, Nat.ne_of_lt h]
  · subst h
    simp [rangeLimit, heq, saturated]

/-- A vector of coefficients that fit Q12 is only rounded (41_lpc.md R144). -/
theorem rangeLimit_of_not_tooLarge {a : List Int} (h : ¬TooLarge a) : rangeLimit a = (a, a.map toQ12) := by
  have hrounds : rangeRounds 10 a = (a, false) := if_pos (Int.not_lt.mp h)
  simp [rangeLimit, hrounds]

theorem saturated_getD (a : List Int) (k : Nat) :
    (saturated a).getD k 0 = clampI (-32768) ((a.getD k 0 + 16) / 32) 32767 :=
  getD_map_of_zero (f := fun x => clampI (-32768) (toQ12 x) 32767) (by decide) a k

/-- What LPC_RANGE leaves is rounded from the Q17 vector it leaves, in either branch. -/
theorem rangeLimit_spec (a : List Int) : (rangeLimit a).1.length = a.length ∧
    (∀ x ∈ (rangeLimit a).1, RoundsToQ12 x) ∧ (rangeLimit a).2 = (rangeLimit a).1.map toQ12 := by
  obtain ⟨n, hends, hfitting, hexhausted⟩ := rangeLimit_eq a
  rcases Nat.eq_or_lt_of_le hends.le with hn | hn
  · rw [hexhausted hn]
    refine ⟨by simp [saturated], fun x hx => ?_, ?_⟩
    · obtain ⟨q, hq, rfl⟩ := List.mem_map.mp hx
      obtain ⟨y, -, rfl⟩ := List.mem_map.mp hq
      obtain ⟨hlo, hhi⟩ := clampI_bounds (lo := -32768) (hi := 32767) (toQ12 y) (by decide)
      simp only [RoundsToQ12, shl]
      constructor <;> norm_num <;> omega
    · rw [List.map_map]
      exact (List.map_id'' (fun q => toQ12_shl q) _).symm
  · rw [hfitting hn]
    refine ⟨rangeVec_length a n, fun x hx => ?_, rfl⟩
    obtain ⟨hlo, hhi⟩ := bounds_of_not_tooLarge (hends.stops hn) x hx
    exact ⟨by omega, hhi⟩

/-! ### The command -/

section
variable (s : State) (set : Fin 2) {k : Nat}

theorem lpcRange_a32 (hk : k < order s) :
    rdI (lpcRange set s).work.a32[set] k = (rangeLimit (a32Of s set)).1.getD k 0 := by
  obtain ⟨hlen, hround, -⟩ := rangeLimit_spec (a32Of s set)
  rw [a32Of_length] at hlen
  simp only [lpcRange_work, putA32_eq_putSet]
  exact rdI_putSet (by decide) hlen (order_le s) hk rfl (getD_of_forall hround (hk.trans_eq hlen.symm)).fits32

theorem lpcRange_aQ12 (hk : k < order s) :
    rdI (lpcRange set s).work.aQ12[set] k = toQ12 ((rangeLimit (a32Of s set)).1.getD k 0) := by
  obtain ⟨hlen, hround, hq⟩ := rangeLimit_spec (a32Of s set)
  rw [a32Of_length] at hlen
  simp only [lpcRange_work, putAQ12_eq_putSet, hq]
  exact rdI_putSet (by decide) (by rwa [List.length_map]) (order_le s) hk (map_toQ12_getD _ k)
    (getD_of_forall hround (hk.trans_eq hlen.symm)).fits16

theorem lpcRange_kept (hk : order s ≤ k) : rd (lpcRange set s).work.a32[set] k 0 = rd s.work.a32[set] k 0 ∧
    rd (lpcRange set s).work.aQ12[set] k 0 = rd s.work.aQ12[set] k 0 := by
  obtain ⟨hlen, -, hq⟩ := rangeLimit_spec (a32Of s set)
  rw [a32Of_length] at hlen
  simp only [lpcRange_work, putA32_eq_putSet, putAQ12_eq_putSet, hq]
  exact ⟨rd_putSet_of_ge hlen (order_le s) hk, rd_putSet_of_ge (by rwa [List.length_map]) (order_le s) hk⟩

end

end Sys2Proof.Machine
end

section
/-! PROOFS. The rounds of LPC_GAINLIM (41_lpc.md R146 to R148). -/

namespace Sys2Proof.Machine

/-- The vector after `r` contractions of LPC_GAINLIM, whether or not the loop makes them. -/
def gainVec (a32 : List Int) : Nat → List Int
  | 0 => a32
  | r + 1 => bwExpand (gainVec a32 r) (65536 - shl 2 r)

/-- Its Q12 vector: the given one before the first contraction. -/
def gainQ12 (a32 aq : List Int) : Nat → List Int
  | 0 => aq
  | r + 1 => (gainVec a32 (r + 1)).map toQ12

@[simp] theorem gainVec_length (a32 : List Int) (r : Nat) : (gainVec a32 r).length = a32.length := by
  induction r with
  | zero => rfl
  | succ r ih => rw [gainVec, bwExpand_length, ih]

/-- A round of the loop is one expansion (41_lpc.md R145, R147). -/
theorem gainVec_expands (d : Nat) (a32 : List Int) (r : Nat) :
    Expands d (65536 - 2 * 2 ^ r) ((gainVec a32 r).getD · 0) ((gainVec a32 (r + 1)).getD · 0) := by
  have hfactor : shl 2 r = 2 * 2 ^ r := by simp [shl]
  have h := bwExpand_expands d (65536 - shl 2 r) (gainVec a32 r)
  rwa [hfactor] at h

theorem gainQ12_length {a32 aq : List Int} {d : Nat} (h32 : a32.length = d) (hq : aq.length = d) (r : Nat) :
    (gainQ12 a32 aq r).length = d := by
  cases r with
  | zero => exact hq
  | succ r => rw [gainQ12, List.length_map, gainVec_length, h32]

/-- The loop contracts up to the first vector judged stable, or sixteen times. -/
theorem gainLimit_eq (judge : List Int → Bool) (a32 aq : List Int) :
    ∃ n, EndsBefore (fun r => judge (gainQ12 a32 aq r) = true) 0 16 n ∧
      gainLimit judge a32 aq = (gainVec a32 n, gainQ12 a32 aq n) :=
  exists_endsBefore (loop := fun left r => gainRounds judge left r (gainVec a32 r) (gainQ12 a32 aq r))
    (out := fun _ r => (gainVec a32 r, gainQ12 a32 aq r)) (fun _ => rfl) (fun _ _ h => if_pos h)
    (fun _ _ h => if_neg h) 16 0

/-- The last contraction has the factor 0 (41_lpc.md R147). -/
theorem gainQ12_last (a32 aq : List Int) : gainQ12 a32 aq 16 = List.replicate a32.length 0 := by
  have hfactor : 65536 - shl 2 15 = 0 := by decide
  have hround : toQ12 0 = 0 := by decide
  rw [gainQ12, gainVec, hfactor, bwExpand_zero, gainVec_length, List.map_replicate, hround]

theorem gainLimit_judged {judge : List Int → Bool} (hzero : ∀ n, judge (List.replicate n 0) = true)
    (a32 aq : List Int) : judge (gainLimit judge a32 aq).2 = true := by
  obtain ⟨n, ⟨-, hle, -, hstop⟩, heq⟩ := gainLimit_eq judge a32 aq
  rw [heq]
  rcases Nat.eq_or_lt_of_le hle with rfl | hlt
  · rw [gainQ12_last]
    exact hzero _
  · exact hstop hlt

theorem gainLimit_of_judged {judge : List Int → Bool} {a32 aq : List Int} (h : judge aq = true) :
    gainLimit judge a32 aq = (a32, aq) := if_pos h

/-! ### The zero vector -/

/-- The step down from the zero vector, whose reflection term is 0: the rounding terms are shifted out
(41_lpc.md R148). -/
theorem stepDown_zero (m k : Nat) : stepDown (List.replicate m 0) k 0 (shl 1 30) = List.replicate k 0 := by
  have hread : ∀ i, (List.replicate m (0 : Int)).getD i 0 = 0 := fun i => by simp
  have hilog : ilog (shl 1 30) = 31 := by decide
  have hround : asr (shl 1 30) 31 = 0 := by decide
  simp only [stepDown, hread, hilog, hround, Int.zero_mul, Int.zero_add, Int.sub_zero, Nat.reduceSub,
    List.map_const', List.length_range]

theorem stableFrom_zero (k m : Nat) : stableFrom k (List.replicate m 0) (shl 1 30) = true := by
  induction k generalizing m with
  | zero => rfl
  | succ k ih =>
    have hread : (List.replicate m (0 : Int)).getD k 0 = 0 := by simp
    have hrc : -(shl 0 7) = 0 := by decide
    have hdiv : shl 1 30 - asr (0 * 0) 32 = shl 1 30 := by decide
    have hgain : shl (asr (shl 1 30 * shl 1 30) 32) 2 = shl 1 30 := by decide
    have hsmall : ¬absI 0 > 16773022 := by decide
    have hlarge : ¬shl 1 30 < 107374 := by decide
    simp only [stableFrom, hread, hrc, hdiv, hgain, if_neg hsmall, if_neg hlarge,
      stepDown_zero, ih]

theorem sumI_replicate_zero (n : Nat) : sumI (List.replicate n 0) = 0 := by
  induction n with
  | zero => rfl
  | succ n ih => rw [List.replicate_succ, sumI_cons, ih, Int.zero_add]

theorem stable_zero (n : Nat) : stable (List.replicate n 0) = true := by
  simp [stable, sumI_replicate_zero, shl_zero, stableFrom_zero]

/-! ### The command -/

theorem gainFactor_bounds {r : Nat} (h : r < 16) : 0 ≤ 65536 - shl 2 r ∧ 65536 - shl 2 r ≤ 65535 := by
  have hpos := Nat.one_le_two_pow (n := r)
  have hle := Nat.pow_le_pow_right (n := 2) (by decide) (Nat.le_of_lt_succ h)
  simp only [shl]
  constructor <;> omega

/-- Contraction keeps every coefficient where rounding to Q12 fits. -/
theorem gainVec_roundsToQ12 {a32 : List Int} (h : ∀ x ∈ a32, RoundsToQ12 x) {r : Nat} (hr : r ≤ 16) :
    ∀ x ∈ gainVec a32 r, RoundsToQ12 x := by
  induction r with
  | zero => exact h
  | succ r ih => exact bwExpand_bounds (gainFactor_bounds hr) (by decide) (by decide) (ih (Nat.le_of_succ_le hr))

theorem gainQ12_fits {a32 aq : List Int} (h : ∀ x ∈ a32, RoundsToQ12 x) (hq : ∀ x ∈ aq, Fits 16 x) {r : Nat}
    (hr : r ≤ 16) : ∀ x ∈ gainQ12 a32 aq r, Fits 16 x := by
  cases r with
  | zero => exact hq
  | succ r => exact List.forall_mem_map.mpr fun x hx => (gainVec_roundsToQ12 h hr x hx).fits16

section
variable {s : State} {set : Fin 2} {n k : Nat}
  (heq : gainLimit (stableBy (params s).pStable) (a32Of s set) (aQ12Of s set) =
    (gainVec (a32Of s set) n, gainQ12 (a32Of s set) (aQ12Of s set) n))
include heq

theorem lpcGainlim_a32 (hn : n ≤ 16) (h : ∀ x ∈ a32Of s set, RoundsToQ12 x) (hk : k < order s) :
    rdI (lpcGainlim set s).work.a32[set] k = (gainVec (a32Of s set) n).getD k 0 := by
  have hlen : (gainVec (a32Of s set) n).length = order s := by simp
  have hfits := getD_of_forall (gainVec_roundsToQ12 h hn) (hk.trans_eq hlen.symm)
  simp only [lpcGainlim_work, putA32_eq_putSet, heq]
  exact rdI_putSet (by decide) hlen (order_le s) hk rfl hfits.fits32

theorem lpcGainlim_aQ12 (hn : n ≤ 16) (h : ∀ x ∈ a32Of s set, RoundsToQ12 x) (hk : k < order s) :
    rdI (lpcGainlim set s).work.aQ12[set] k = (gainQ12 (a32Of s set) (aQ12Of s set) n).getD k 0 := by
  have hlen := gainQ12_length (a32Of_length s set) (aQ12Of_length s set) n
  have hfits := getD_of_forall (gainQ12_fits h (firstI_fits _ (order s)) hn) (hk.trans_eq hlen.symm)
  simp only [lpcGainlim_work, putAQ12_eq_putSet, heq]
  exact rdI_putSet (by decide) hlen (order_le s) hk rfl hfits

theorem lpcGainlim_kept (hk : order s ≤ k) : rd (lpcGainlim set s).work.a32[set] k 0 = rd s.work.a32[set] k 0 ∧
    rd (lpcGainlim set s).work.aQ12[set] k 0 = rd s.work.aQ12[set] k 0 := by
  have hlen := gainQ12_length (a32Of_length s set) (aQ12Of_length s set) n
  simp only [lpcGainlim_work, putA32_eq_putSet, putAQ12_eq_putSet, heq]
  exact ⟨rd_putSet_of_ge (by simp) (order_le s) hk, rd_putSet_of_ge hlen (order_le s) hk⟩

end

theorem lpcGainlim_of_judged {s : State} {set : Fin 2} (h : stableBy (params s).pStable (aQ12Of s set) = true) :
    (lpcGainlim set s).work.a32 = s.work.a32 ∧ (lpcGainlim set s).work.aQ12 = s.work.aQ12 := by
  simp only [lpcGainlim_work, gainLimit_of_judged h, putA32_eq_putSet, putAQ12_eq_putSet]
  exact ⟨putSet_firstI (by decide) (order_le s), putSet_firstI (by decide) (order_le s)⟩

end Sys2Proof.Machine
end

section
/-! PROOFS. The statements of 41_lpc.md, settled. -/

open Sys2Proof Sys2Proof.Machine

/-- Settles O31: the index above the middle reads the polynomials at its mirror image. -/
theorem lpcConvertWritesTheCoefficients : Obligations.LpcConvertWritesTheCoefficients := by
  intro s arg set harg hinterp hconv hset d c p q fits
  have hpre : mayConvert set s = true := by
    simp only [mayConvert, after, phaseHas, phaseIndex, hinterp, hconv]
    simpa [or_iff_not_imp_left] using hset
  have hlen : (lpcOfNlsf s.fresh (params s).cosQ12 (book s).order (nlsfOfSet s set)).length = d :=
    (lpcOfNlsf_length _ _ _ _).trans (nlsfOfSet_length s set)
  refine ⟨_, (onSet_of_val harg _ s).trans (command_of_pre _ hpre), fun k hk => ?_, fun k hk => ?_,
    fun other hother => putSet_other hother, rfl⟩
  · obtain ⟨hlo, hhi⟩ := lpcOfNlsf_getD s.fresh (params s).cosQ12 (book s).order (nlsfOfSet_length s set)
      (order_even s) hk
    have hd : d = 2 * (d / 2) := order_even s
    exact ⟨fun hfits => rdI_putSet (by decide) hlen (order_le s) (by omega) hlo (fits32 hfits.1 hfits.2),
      fun hfits => rdI_putSet (by decide) hlen (order_le s) (by omega) hhi (fits32 hfits.1 hfits.2)⟩
  · exact rd_putSet_of_ge hlen (order_le s) hk

/-- Settles O32: interpolation stays between two entries of the table. -/
theorem cosinesFitSeventeenBits : Obligations.CosinesFitSeventeenBits :=
  fun _ _ _ => cosineQ17_bounds

/-- Settles O33: what either branch leaves fits the elements, so that each is held as computed. -/
theorem lpcRangeRoundsEveryCoefficient : Obligations.LpcRangeRoundsEveryCoefficient := by
  intro s arg set harg hconv hrange d
  obtain ⟨n, hends, hfitting, hexhausted⟩ := rangeLimit_eq (a32Of s set)
  refine ⟨_, n, fun r k => (rangeVec (a32Of s set) r).getD k 0,
    (onSet_of_val harg _ s).trans (command_after (x := .conv set) (b := .range set) _ hconv hrange), hends.le,
    fun k hk => firstI_getD _ _ k hk,
    fun r hr => rangeVec_rangeRound (a32Of_length s set) (not_not.mp (hends.before r (Nat.zero_le r) hr)),
    fun hn k hk => ?_, fun hn k hk => ?_, fun k hk => ?_, fun k hk => lpcRange_kept s set hk,
    fun other hother => ⟨putSet_other hother, putSet_other hother⟩, fun hsmall => ?_, rfl⟩
  · have hlen : k < (rangeVec (a32Of s set) n).length := by
      rwa [rangeVec_length, a32Of_length]
    obtain ⟨hlo, hhi⟩ := getD_of_forall (bounds_of_not_tooLarge (hends.stops hn)) hlen
    refine ⟨hlo, hhi, ?_⟩
    rw [complete_work, lpcRange_a32 s set hk, hfitting hn]
  · rw [complete_work, lpcRange_aQ12 s set hk, lpcRange_a32 s set hk, hexhausted hn, getD_map_of_zero (shl_zero 5),
      toQ12_shl, saturated_getD]
    exact ⟨rfl, rfl⟩
  · rw [complete_work, lpcRange_aQ12 s set hk, lpcRange_a32 s set hk]
    rfl
  · have hfits : rangeLimit (a32Of s set) = (a32Of s set, (a32Of s set).map toQ12) := by
      refine rangeLimit_of_not_tooLarge (not_tooLarge_of_bounds fun k hk => ?_)
      rw [a32Of_length] at hk
      rw [a32Of, firstI_getD _ _ k hk]
      exact hsmall k hk
    rw [complete_work, lpcRange_work, hfits]
    exact putSet_firstI (by decide) (order_le s)

/-- Settles O34: the quotient taken off is largest for index 0 and the magnitude 163838. -/
theorem expansionFactorsAreBounded : Obligations.ExpansionFactorsAreBounded :=
  fun _ _ hm _ => rangeFactor_bounds hm

/-- Settles O35: contraction keeps the bounds of what LPC_RANGE leaves, so that every value is held as computed. -/
theorem lpcGainlimLeavesAStableFilter : Obligations.LpcGainlimLeavesAStableFilter := by
  intro s arg set harg hrange hgain hbounds d judge
  have hin : ∀ x ∈ a32Of s set, RoundsToQ12 x := by
    intro x hx
    obtain ⟨k, hk, rfl⟩ := List.mem_map.mp hx
    exact hbounds k (List.mem_range.mp hk)
  obtain ⟨n, hends, heq⟩ := gainLimit_eq (stableBy (params s).pStable) (a32Of s set) (aQ12Of s set)
  have hlist : ∀ r, (List.range d).map ((gainQ12 (a32Of s set) (aQ12Of s set) r).getD · 0) =
      gainQ12 (a32Of s set) (aQ12Of s set) r := fun r =>
    map_getD_range_of_length (gainQ12_length (a32Of_length s set) (aQ12Of_length s set) r)
  have hjudge : ∀ r, judge ((gainQ12 (a32Of s set) (aQ12Of s set) r).getD · 0) =
      stableBy (params s).pStable (gainQ12 (a32Of s set) (aQ12Of s set) r) := fun r =>
    congrArg (stableBy (params s).pStable) (hlist r)
  refine ⟨_, n, fun r k => (gainVec (a32Of s set) r).getD k 0,
    fun r k => (gainQ12 (a32Of s set) (aQ12Of s set) r).getD k 0,
    (onSet_of_val harg _ s).trans (command_after (x := .range set) (b := .gain set) _ hrange hgain), hends.le,
    fun k hk => ⟨firstI_getD _ _ k hk, firstI_getD _ _ k hk⟩,
    fun r hr => ⟨?_, gainVec_expands d _ r, fun k _ => map_toQ12_getD _ k⟩,
    fun hn => (hjudge n).trans (hends.stops hn),
    fun k hk => ⟨lpcGainlim_a32 heq hends.le hin hk, lpcGainlim_aQ12 heq hends.le hin hk⟩, fun hdefault => ?_,
    fun h => lpcGainlim_of_judged h, fun k hk => lpcGainlim_kept heq hk,
    fun other hother => ⟨putSet_other hother, putSet_other hother⟩, rfl⟩
  · exact (hjudge r).trans (Bool.eq_false_of_not_eq_true (hends.before r (Nat.zero_le r) hr))
  · have hstable : stableBy (params s).pStable = stable := congrArg stableBy hdefault
    have hjudged : stable (gainQ12 (a32Of s set) (aQ12Of s set) n) = true := by
      simpa only [← hstable, heq] using gainLimit_judged stable_zero (a32Of s set) (aQ12Of s set)
    have hread : (List.range d).map (rdI (lpcGainlim set s).work.aQ12[set]) =
        gainQ12 (a32Of s set) (aQ12Of s set) n :=
      (List.map_congr_left fun k hk => lpcGainlim_aQ12 heq hends.le hin (List.mem_range.mp hk)).trans (hlist n)
    rwa [complete_work, hread]

/-- Settles O36: the loop stops at a vector judged stable or at the zero vector. -/
theorem gainLimitingIsIdempotent : Obligations.GainLimitingIsIdempotent :=
  ⟨stable_zero, fun _ a32 aq hzero =>
    have hjudged := gainLimit_judged hzero a32 aq
    ⟨hjudged, gainLimit_of_judged hjudged⟩⟩

end

section
/-! PROOFS. The tables of the pitch and LTP decoder (42_ltp.md R170), and what the cursor draws with them:
PITCH_LAGS (42_ltp.md R171 to R173) and LTP_COEFS (42_ltp.md R174). -/

namespace Sys2Proof.Machine

/-! ### Requests and tables -/

theorem sym_isAnswer {m : Nat} {tab : Icdf} (h : icdfWf m tab = true) (c : Cursor) : IsAnswer tab (sym tab c).1 :=
  (sym_spec h c).1

theorem sym_served {m : Nat} {tab : Icdf} (h : icdfWf m tab = true) (c : Cursor) :
    (sym tab c).2.served = c.served + 1 := by
  obtain ⟨-, -, hserved, -⟩ := sym_spec h c
  exact hserved

theorem intsWf_fits {m w : Nat} {xs : List Int} (h : intsWf m w xs = true) :
    xs.length = m ∧ ∀ x ∈ xs, Fits w x := by
  simpa [intsWf, Fits] using h

/-- The LTP tables pass their checks (42_ltp.md R170). -/
theorem ltpTables_wf (s : State) : rowsWf 3 (fun l => icdfWf (filterCount l)) (params s).ltpFiltIcdf = true ∧
    rowsWf 3 (fun l => rowsWf (filterCount l) (fun _ => intsWf 5 8)) (params s).ltpCbQ7 = true ∧
    icdfWf 3 (params s).ltpScaleIcdf = true ∧ intsWf 3 16 (params s).ltpScaleQ14 = true := by
  obtain ⟨-, -, -, -, -, -, -, -, -, -, h, -⟩ := params_wf s
  simp only [ltpWf, Bool.and_eq_true] at h
  obtain ⟨⟨⟨⟨-, hfilt⟩, htaps⟩, hscale⟩, hvalues⟩ := h
  exact ⟨hfilt, htaps, hscale, hvalues⟩

theorem filterCount_le (level : Nat) : filterCount level ≤ 32 := by
  match level with
  | 0 | 1 | 2 => decide
  | _ + 3 => exact Nat.zero_le 32

/-- The selector answers an existing class for every lag (42_ltp.md R170). -/
theorem contourClass_lt (s : State) (lag : Int) :
    contourClass (params s) s.frame.bw lag < (params s).contourIcdf.length := by
  obtain ⟨-, -, -, -, -, -, -, -, hlag, -⟩ := params_wf s
  have h := hlag s.frame.bw
  simp only [lagTablesWf, Bool.and_eq_true, List.all_eq_true, decide_eq_true_eq] at h
  obtain ⟨⟨-, hclasses⟩, hbeyond⟩ := h
  simp only [contourClass]
  split
  · exact hbeyond
  · rw [List.getD_eq_getElem?_getD]
    cases hget : (forBw (params s).contourSel s.frame.bw).classes[(lag - lagMin s.frame.bw).toNat]? with
    | none => exact hbeyond
    | some c => exact hclasses c (List.mem_of_getElem? hget)

/-- The table of contour indices that a lag selects (42_ltp.md R170). -/
def contourTable (s : State) (lag : Int) : Icdf :=
  (params s).contourIcdf.getD (contourClass (params s) s.frame.bw lag) []

theorem contourTable_wf (s : State) (lag : Int) :
    icdfWf (contourTable s lag).length (contourTable s lag) = true := by
  obtain ⟨-, -, -, -, -, -, -, -, -, h, -⟩ := params_wf s
  simp only [contourWf, Bool.and_eq_true, List.all_eq_true] at h
  rw [contourTable, List.getD_eq_getElem _ _ (contourClass_lt s lag)]
  exact h.1 _ (List.getElem_mem _)

/-! ### Working through the subframes -/

/-- Every result of drawing over `0 .. n-1` is what its index draws from some cursor. -/
theorem exists_drawEach_range {β : Type} (f : Nat → Cursor → β × Cursor) (n : Nat) (c : Cursor) (d : β) :
    ∃ cur : Nat → Cursor, ∀ k, k < n → (drawEach f (List.range n) c).1.getD k d = (f k (cur k)).1 := by
  have hdraw : ∀ k, k < n → ∃ c', (drawEach f (List.range n) c).1.getD k d = (f k c').1 := by
    intro k hk
    have hall := drawEach_forall (P := fun k y => ∃ c', y = (f k c').1) (as := List.range n)
      (fun k _ c' => ⟨c', rfl⟩) c
    have hlen : k < (drawEach f (List.range n) c).1.length := by simpa using hk
    rw [List.getD_eq_getElem _ _ hlen]
    simpa using (List.forall₂_iff_get.mp hall).2 k (by simpa using hk) hlen
  have : Nonempty Cursor := ⟨c⟩
  choose! cur hcur using hdraw
  exact ⟨cur, hcur⟩

/-- One request an element makes as many requests as there are elements. -/
theorem drawEach_served_of_one {α β : Type} {f : α → Cursor → β × Cursor} {as : List α}
    (h : ∀ a ∈ as, ∀ c, (f a c).2.served = c.served + 1) (c : Cursor) :
    (drawEach f as c).2.served = c.served + as.length := by
  have hbounds := drawEach_served 1 1 (fun a ha c => ⟨(h a ha c).ge, (h a ha c).le⟩) c
  omega

/-! ### PITCH_LAGS -/

/-- The largest split lag is LAG_MAX - 1 (42_ltp.md R171). -/
theorem splitLag_lt (bw : Bandwidth) {hi lo : Nat} (hhi : hi < 32) (hlo : lo < lagScale bw) :
    hi * lagScale bw + lo + lagMin bw < lagMax bw := by
  cases bw <;> simp only [lagScale, lagMin, lagMax] at * <;> omega

/-- The split primary lag (42_ltp.md R171). -/
theorem primaryLag_of_split {s : State} (h : forBw (params s).pitchSplit s.frame.bw = true) (c : Cursor) :
    (primaryLag (params s) s.frame.bw c).1 < lagMax s.frame.bw ∧
    (∃ hi lo, IsAnswer (params s).pitchHighIcdf hi ∧ IsAnswer (forBw (params s).pitchLowIcdf s.frame.bw) lo ∧
      (primaryLag (params s) s.frame.bw c).1 = hi * lagScale s.frame.bw + lo + lagMin s.frame.bw) ∧
    (primaryLag (params s) s.frame.bw c).2.served = c.served + 2 := by
  obtain ⟨-, -, -, -, -, -, -, hhigh, hlag, -⟩ := params_wf s
  have hbw := hlag s.frame.bw
  simp only [lagTablesWf, if_pos h, Bool.and_eq_true] at hbw
  obtain ⟨⟨hlow, -⟩, -⟩ := hbw
  obtain ⟨hhi, hhi32, hserved, -⟩ := sym_spec hhigh c
  obtain ⟨hlo, hloScale, hserved', -⟩ := sym_spec hlow (sym (params s).pitchHighIcdf c).2
  simp only [primaryLag, if_pos h]
  exact ⟨splitLag_lt _ hhi32 hloScale, ⟨_, _, hhi, hlo, rfl⟩, by rw [hserved', hserved]⟩

/-- The unsplit primary lag (42_ltp.md R172). -/
theorem primaryLag_of_unsplit {s : State} (h : forBw (params s).pitchSplit s.frame.bw = false) (c : Cursor) :
    (∃ v, IsAnswer (forBw (params s).pitchAbsIcdf s.frame.bw) v ∧
      (primaryLag (params s) s.frame.bw c).1 = v + lagMin s.frame.bw) ∧
    (primaryLag (params s) s.frame.bw c).2.served = c.served + 1 := by
  obtain ⟨-, -, -, -, -, -, -, -, hlag, -⟩ := params_wf s
  have hbw := hlag s.frame.bw
  have hn : ¬forBw (params s).pitchSplit s.frame.bw = true := Bool.eq_false_iff.mp h
  simp only [lagTablesWf, if_neg hn, Bool.and_eq_true] at hbw
  obtain ⟨⟨habs, -⟩, -⟩ := hbw
  simp only [primaryLag, if_neg hn]
  exact ⟨⟨_, sym_isAnswer habs c, rfl⟩, sym_served habs c⟩

theorem primaryLag_served (s : State) (c : Cursor) : (primaryLag (params s) s.frame.bw c).2.served =
    c.served + if forBw (params s).pitchSplit s.frame.bw then 2 else 1 := by
  cases h : forBw (params s).pitchSplit s.frame.bw with
  | false => exact (primaryLag_of_unsplit h c).2
  | true =>
    obtain ⟨-, -, hserved⟩ := primaryLag_of_split h c
    exact hserved

/-- One contour index for one subframe, and its offset (42_ltp.md R171). -/
def drawOffset (p : Params) (cls sub : Nat) (c : Cursor) : Int × Cursor :=
  (contourOffset p cls (sym (p.contourIcdf.getD cls []) c).1 sub, (sym (p.contourIcdf.getD cls []) c).2)

theorem lagOffsets_of_perSubframe {p : Params} (h : p.contourMode = .perSubframe) (cls : Nat) (c : Cursor) :
    lagOffsets p cls c = drawEach (drawOffset p cls) (List.range 4) c := by
  simp only [lagOffsets, h]
  rfl

theorem lagOffsets_of_perFrame {p : Params} (h : p.contourMode = .perFrame) (cls : Nat) (c : Cursor) :
    lagOffsets p cls c = ((List.range 4).map (contourOffset p cls (sym (p.contourIcdf.getD cls []) c).1),
      (sym (p.contourIcdf.getD cls []) c).2) := by
  simp only [lagOffsets, h]

/-- The offsets are those of one contour index for each subframe, or of one for the frame (42_ltp.md R171, R173). -/
theorem lagOffsets_spec {p : Params} {cls m : Nat} (h : icdfWf m (p.contourIcdf.getD cls []) = true)
    (c : Cursor) : ∃ j : Nat → Nat, (∀ sub, IsAnswer (p.contourIcdf.getD cls []) (j sub)) ∧
      (p.contourMode = .perFrame → ∀ sub, j sub = j 0) ∧
      ∀ sub, sub < 4 → (lagOffsets p cls c).1.getD sub 0 = contourOffset p cls (j sub) sub := by
  cases hmode : p.contourMode with
  | perFrame =>
    refine ⟨fun _ => (sym (p.contourIcdf.getD cls []) c).1, fun _ => sym_isAnswer h c, fun _ _ => rfl,
      fun sub hsub => ?_⟩
    simp [lagOffsets_of_perFrame hmode, hsub]
  | perSubframe =>
    obtain ⟨cur, hcur⟩ := exists_drawEach_range (drawOffset p cls) 4 c 0
    refine ⟨fun sub => (sym (p.contourIcdf.getD cls []) (cur sub)).1, fun sub => sym_isAnswer h (cur sub),
      (nomatch ·), fun sub hsub => ?_⟩
    rw [lagOffsets_of_perSubframe hmode, hcur sub hsub, drawOffset]

theorem drawnOffsets_spec (s : State) : ∃ j : Nat → Nat,
    (∀ sub, IsAnswer (contourTable s (drawnLag s).toInt) (j sub)) ∧
    ((params s).contourMode = .perFrame → ∀ sub, j sub = j 0) ∧
    ∀ sub, sub < 4 → (drawnOffsets s).getD sub 0 =
      contourOffset (params s) (contourClass (params s) s.frame.bw (drawnLag s).toInt) (j sub) sub :=
  lagOffsets_spec (contourTable_wf s _) _

theorem lagOffsets_served {p : Params} {cls m : Nat} (h : icdfWf m (p.contourIcdf.getD cls []) = true)
    (c : Cursor) : (lagOffsets p cls c).2.served =
      c.served + if p.contourMode = .perFrame then 1 else 4 := by
  cases hmode : p.contourMode with
  | perFrame =>
    rw [lagOffsets_of_perFrame hmode, if_pos rfl]
    exact sym_served h c
  | perSubframe =>
    rw [lagOffsets_of_perSubframe hmode, if_neg (nomatch ·)]
    exact drawEach_served_of_one (f := drawOffset p cls) (fun _ _ => sym_served h) c

theorem pitchLags_served (s : State) : (pitchLags s).cursor.served = s.cursor.served +
    (if forBw (params s).pitchSplit s.frame.bw then 2 else 1) +
    (if (params s).contourMode = .perFrame then 1 else 4) :=
  (lagOffsets_served (contourTable_wf s _) _).trans (congrArg (· + _) (primaryLag_served s s.cursor))

/-- PITCH_LAGS runs its effect on a voiced frame (70_reset_and_hazards.md R340). -/
theorem exec_pitchLags {s : State} (hinterp : phaseHas s .interp = true) (hpitch : phaseHas s .pitch = false)
    (hvoiced : s.frame.sigType = .voiced) : exec .pitchLags s = .next (complete (pitchLags s)) :=
  command_of_pre (pre := fun s => after .interp .pitch s && voiced s) pitchLags
    (by simp [after, voiced, hinterp, hpitch, hvoiced])

/-- What PITCH_LAGS stores and the cursor it leaves stay unnamed here, so that comparing the other fields never
unfolds them. -/
theorem pitchLags_shape (s : State) : ∃ (lag : BitVec 16) (lags : Vector (BitVec 16) 4) (c : Cursor),
    pitchLags s =
      markPhase .pitch { s with work := { s.work with lag := lag, pitchLag := lags }, cursor := c } :=
  ⟨_, _, _, rfl⟩

theorem pitchLags_lag (s : State) : (pitchLags s).work.lag = drawnLag s := by
  simp only [pitchLags, markPhase_work, drawnLag]

/-- Clamped lags fit their elements. -/
theorem subframeLags_fits (bw : Bandwidth) (lag : Int) (offsets : List Int) :
    ∀ x ∈ subframeLags bw lag offsets, Fits 16 x := by
  intro x hx
  obtain ⟨hlo, hhi⟩ := subframeLags_bounds bw lag offsets x hx
  have hmax : lagMax bw ≤ 288 := by cases bw <;> decide
  exact fits16 (by omega) (by omega)

theorem subframeLags_getD (bw : Bandwidth) (lag : Int) {offsets : List Int} {k : Nat} (hk : k < offsets.length) :
    (subframeLags bw lag offsets).getD k 0 =
      clampI (lagMin bw) (lag + offsets.getD k 0) (lagMax bw) := by
  simp [subframeLags, hk]

/-- The stored lags are the clamped ones (42_ltp.md R171). -/
theorem rdI_pitchLags (s : State) {k : Nat} (hk : k < 4) : rdI (pitchLags s).work.pitchLag k =
    clampI (lagMin s.frame.bw) ((drawnLag s).toInt + (drawnOffsets s).getD k 0) (lagMax s.frame.bw) := by
  have hlen := drawnOffsets_length s
  have hlags : (subframeLags s.frame.bw (drawnLag s).toInt (drawnOffsets s)).length = 4 := by
    rw [subframeLags, List.length_map, hlen]
  rw [pitchLags_pitchLag, rdI_storeFirst_of_fits (by decide) hlags (le_refl 4) hk (subframeLags_fits _ _ _),
    subframeLags_getD _ _ (hlen ▸ hk)]

/-! ### LTP_COEFS -/

theorem drawnLevel_lt (s : State) : drawnLevel s < 3 := sym_lt (levelTable_wf s) _

/-- The table of filter indices of the drawn level (42_ltp.md R174). -/
theorem filterTable_wf (s : State) :
    icdfWf (filterCount (drawnLevel s)) ((params s).ltpFiltIcdf.getD (drawnLevel s) []) = true :=
  rowsWf_getD (ltpTables_wf s).1 _ [] (drawnLevel_lt s)

@[simp] theorem drawnFilters_length (s : State) : (drawnFilters s).length = 4 := by
  simp [drawnFilters]

theorem drawnFilters_spec (s : State) {sub : Nat} (hsub : sub < 4) :
    IsAnswer ((params s).ltpFiltIcdf.getD (drawnLevel s) []) ((drawnFilters s).getD sub 0) ∧
      (drawnFilters s).getD sub 0 < filterCount (drawnLevel s) := by
  obtain ⟨cur, hcur⟩ := exists_drawEach_range
    (fun _ c => sym ((params s).ltpFiltIcdf.getD (drawnLevel s) []) c) 4 (sym (params s).ltpPerIcdf s.cursor).2 0
  obtain ⟨hans, hlt, -⟩ := sym_spec (filterTable_wf s) (cur sub)
  rw [drawnFilters, hcur sub hsub]
  exact ⟨hans, hlt⟩

theorem ltpCoefs_ltpIdx (s : State) {sub : Nat} (hsub : sub < 4) :
    (rd (ltpCoefs s).work.ltpIdx sub 0).toNat = (drawnFilters s).getD sub 0 := by
  have hlt := (drawnFilters_spec s hsub).2.trans_le (filterCount_le _)
  have hlen : sub < (drawnFilters s).length := by rwa [drawnFilters_length]
  have hmap : sub < ((drawnFilters s).map (storeU s.fresh 8)).length := by rwa [List.length_map]
  rw [ltpCoefs_work, rd_putFirst_of_lt _ _ _ _ hsub, if_pos hmap, List.getD_eq_getElem _ _ hmap, List.getElem_map,
    ← List.getD_eq_getElem _ 0 hlen, storeU_toNat _ (by omega)]

theorem ltpCoefs_bQ7 (s : State) {sub tap : Nat} (hsub : sub < 4) (htap : tap < 5) :
    rdI (rd (ltpCoefs s).work.bQ7 sub (Vector.replicate 5 0)) tap =
      (ltpTaps (params s) (drawnLevel s) ((drawnFilters s).getD sub 0)).getD tap 0 := by
  obtain ⟨-, htaps, -⟩ := ltpTables_wf s
  obtain ⟨hlen, hfits⟩ := intsWf_fits
    (rowsWf_getD (rowsWf_getD htaps _ [] (drawnLevel_lt s)) _ [] (drawnFilters_spec s hsub).2)
  rw [ltpCoefs_work, rd_build, if_pos hsub, drawnTaps]
  exact rdI_storeFirst_of_fits (by decide) hlen (le_refl 5) htap hfits

theorem ltpCoefs_served (s : State) : (ltpCoefs s).cursor.served = s.cursor.served + 5 := by
  have hfilters := drawEach_served_of_one (as := List.range 4)
    (fun _ _ c => sym_served (filterTable_wf s) c) (sym (params s).ltpPerIcdf s.cursor).2
  rw [sym_served (levelTable_wf s)] at hfilters
  exact hfilters

end Sys2Proof.Machine
end

section
/-! PROOFS. The statements of 42_ltp.md, settled. -/

open Sys2Proof Sys2Proof.Machine

/-- Settles O37: the selector answers an existing class, and the clamped lags are held as computed. -/
theorem pitchLagsFollowTheAnswers : Obligations.PitchLagsFollowTheAnswers := by
  intro s hinterp hpitch hvoiced p bw
  obtain ⟨j, hans, hone, hoffset⟩ := drawnOffsets_spec s
  refine ⟨_, (primaryLag p bw s.cursor).1, j, exec_pitchLags hinterp hpitch hvoiced, fun h => ?_,
    fun h => (primaryLag_of_unsplit h s.cursor).1, fun hlt => ?_, ?_, pitchLags_served s, ?_⟩
  · obtain ⟨hlt, hparts, -⟩ := primaryLag_of_split h s.cursor
    exact ⟨hlt, hparts⟩
  · obtain ⟨hlo, hhi⟩ := fits16 (x := (primaryLag p bw s.cursor).1) (by omega) (by omega)
    rw [complete_work, pitchLags_lag]
    exact storeI_toInt s.fresh (by decide) hlo hhi
  · rw [complete_work, pitchLags_lag]
    refine ⟨fun sub _ => hans sub, fun hframe sub _ => hone hframe sub, fun sub hsub => ?_⟩
    rw [rdI_pitchLags s hsub, hoffset sub hsub]
    rfl
  · obtain ⟨lag, lags, c, h⟩ := pitchLags_shape s
    rw [h]
    rfl

/-- Settles O38: a filter index is below 32 and a tap is an int8, so that each is held as selected. -/
theorem ltpCoefsStoreTheSelectedTaps : Obligations.LtpCoefsStoreTheSelectedTaps := by
  intro s hpitch hltpc p
  refine ⟨_, command_after (x := .pitch) (b := .ltpc) ltpCoefs hpitch hltpc,
    sym_isAnswer (levelTable_wf s) s.cursor, fun sub hsub => ?_, ltpCoefs_served s, rfl⟩
  rw [complete_work, ltpCoefs_ltpIdx s hsub]
  exact ⟨(drawnFilters_spec s hsub).1, fun tap htap => ltpCoefs_bQ7 s hsub htap⟩

/-- Settles O39: the scales fit their element. -/
theorem ltpScaleStoresTheSelectedScale : Obligations.LtpScaleStoresTheSelectedScale := by
  intro s hltpc hltps
  obtain ⟨-, -, hicdf, hvalues⟩ := ltpTables_wf s
  obtain ⟨hans, hlt, hserved, -⟩ := sym_spec hicdf s.cursor
  obtain ⟨hlo, hhi⟩ := intsWf_getD hvalues _ 0 hlt
  exact ⟨_, _, command_after (x := .ltpc) (b := .ltps) ltpScale hltpc hltps, hans, hlt,
    storeI_toInt s.fresh (by decide) hlo hhi, hserved, rfl⟩

end

section
/-! PROOFS. What the cursor answers to a command that makes many requests: with every answer fixed in advance
(20_memory.md R70, R71), and how many requests that is. -/

namespace Sys2Proof.Machine

/-! ### Requests with their answers fixed -/

/-- Where the fixed answers begin with those of `pairs`, drawing makes these requests and gives `y`. -/
def DrawsFrom {β : Type} (draw : Cursor → β × Cursor) (pairs : List (Icdf × Nat)) (y : β) : Prop :=
  ∀ (more : List Nat) (n : Nat), draw ⟨pairs.map (·.2) ++ more, n⟩ = (y, ⟨more, n + pairs.length⟩)

theorem drawsFrom_pure {β : Type} (y : β) : DrawsFrom (fun c => (y, c)) [] y := fun _ _ => rfl

theorem drawsFrom_sym {tab : Icdf} {a : Nat} (h : IsAnswer tab a) : DrawsFrom (sym tab) [(tab, a)] a :=
  fun _ _ => sym_of_script h

/-- Drawing in two steps, the second by the result of the first. -/
theorem DrawsFrom.bind {α β : Type} {first : Cursor → α × Cursor} {second : α → Cursor → β × Cursor}
    {pairs pairs' : List (Icdf × Nat)} {x : α} {y : β} (h : DrawsFrom first pairs x)
    (h' : DrawsFrom (second x) pairs' y) :
    DrawsFrom (fun c => second (first c).1 (first c).2) (pairs ++ pairs') y := by
  intro more n
  rw [List.map_append, List.append_assoc]
  dsimp only
  rw [h, h', List.length_append, Nat.add_assoc]

theorem DrawsFrom.map {α β : Type} {draw : Cursor → α × Cursor} {pairs : List (Icdf × Nat)} {x : α}
    (h : DrawsFrom draw pairs x) (g : α → β) : DrawsFrom (fun c => (g (draw c).1, (draw c).2)) pairs (g x) := by
  intro more n
  dsimp only
  rw [h]

/-- Working through a list makes each element's requests, in order. -/
theorem DrawsFrom.drawEach {α β : Type} {f : α → Cursor → β × Cursor} {pairs : α → List (Icdf × Nat)} {y : α → β}
    {as : List α} (h : ∀ a ∈ as, DrawsFrom (f a) (pairs a) (y a)) :
    DrawsFrom (Machine.drawEach f as) (as.flatMap pairs) (as.map y) := by
  induction as with
  | nil => exact drawsFrom_pure []
  | cons a as ih =>
    have htail := (ih fun b hb => h b (List.mem_cons_of_mem _ hb)).map (y a :: ·)
    exact (h a List.mem_cons_self).bind (second := fun b c => (b :: (Machine.drawEach f as c).1,
      (Machine.drawEach f as c).2)) htail

/-- Working through a list where the fixed answers of a state begin with those of every element's requests. -/
theorem drawEach_of_answers {α β : Type} {f : α → Cursor → β × Cursor} {pairs : α → List (Icdf × Nat)} {y : α → β}
    {as : List α} {s : State} {rest : List Nat} (hans : Answers s (as.flatMap pairs) rest)
    (h : ∀ a ∈ as, (∀ p ∈ pairs a, IsAnswer p.1 p.2) → DrawsFrom (f a) (pairs a) (y a)) :
    drawEach f as s.cursor = (as.map y, ⟨rest, s.cursor.served + (as.flatMap pairs).length⟩) := by
  obtain ⟨hanswer, hscript⟩ := hans
  rw [← DrawsFrom.drawEach fun a ha => h a ha fun p hp => hanswer p (List.mem_flatMap.mpr ⟨a, ha, hp⟩), ← hscript]

/-- The requests of the chosen elements alone, as requests of every element. -/
theorem map_filter_eq_flatMap {α β : Type} (p : α → Prop) [DecidablePred p] (g : α → β) (as : List α) :
    (as.filter fun a => p a).map g = as.flatMap fun a => if p a then [g a] else [] := by
  induction as with
  | nil => rfl
  | cons a as ih => by_cases h : p a <;> simp [h, ih]

/-! ### The number of requests -/

/-- The requests of a list are those of its elements together. -/
theorem drawEach_served_sum {α β : Type} {f : α → Cursor → β × Cursor} {cost : α → Nat} {as : List α}
    (h : ∀ a ∈ as, ∀ c, (f a c).2.served = c.served + cost a) (c : Cursor) :
    (drawEach f as c).2.served = c.served + (as.map cost).sum := by
  induction as generalizing c with
  | nil => rfl
  | cons a as ih =>
    have htail := ih (fun b hb => h b (List.mem_cons_of_mem _ hb)) (f a c).2
    rw [h a List.mem_cons_self c] at htail
    rw [List.map_cons, List.sum_cons, ← Nat.add_assoc]
    exact htail

theorem sum_map_ite_one {α : Type} (p : α → Prop) [DecidablePred p] (as : List α) :
    (as.map fun a => if p a then 1 else 0).sum = (as.filter fun a => p a).length := by
  induction as with
  | nil => rfl
  | cons a as ih => by_cases h : p a <;> simp [h, ih, Nat.add_comm]

/-- A sum over the samples of blocks of 16, of what depends on the block alone. -/
theorem sum_map_range_blocks (f : Nat → Nat) (n : Nat) :
    ((List.range (16 * n)).map fun i => f (i / 16)).sum = ((List.range n).map fun b => 16 * f b).sum := by
  induction n with
  | zero => rfl
  | succ n ih =>
    have hblock : (List.range 16).map (fun i => f ((16 * n + i) / 16)) = List.replicate 16 (f n) := by
      refine List.eq_replicate_iff.mpr ⟨by simp, fun x hx => ?_⟩
      obtain ⟨i, hi, rfl⟩ := List.mem_map.mp hx
      rw [show (16 * n + i) / 16 = n by rw [List.mem_range] at hi; omega]
    rw [Nat.mul_succ, List.range_add, List.map_append, List.sum_append, ih, List.map_map, List.range_succ (n := n),
      List.map_append, List.sum_append, List.map_singleton, List.sum_singleton]
    simp only [Function.comp_def, hblock, List.sum_const_nat]

end Sys2Proof.Machine
end

section
/-! PROOFS. EXC_SEED and EXC_RATE (43_excitation.md R190, R191). -/

namespace Sys2Proof.Machine

theorem forVoicing_eq {α : Type} (t : ByVoicing α) (sig : SigType) :
    forVoicing t sig = if sig = .voiced then t.voiced else t.unvoiced := by
  cases sig <;> rfl

/-- EXC_SEED runs its effect, on a voiced frame after LTP_SCALE (70_reset_and_hazards.md R340). -/
theorem exec_excSeed {s : State} (hinterp : phaseHas s .interp = true) (hseed : phaseHas s .seed = false)
    (hvoiced : s.frame.sigType = .voiced → phaseHas s .ltps = true) :
    exec .excSeed s = .next (complete (excSeed s)) := by
  refine command_of_pre (pre := fun s => after .interp .seed s && (!voiced s || phaseHas s .ltps)) excSeed ?_
  by_cases h : s.frame.sigType = .voiced
  · simp [after, hinterp, hseed, hvoiced h]
  · simp [after, voiced, hinterp, hseed, h]

end Sys2Proof.Machine
end

section
/-! PROOFS. EXC_COUNTS: the counts and the requests of a block (43_excitation.md R192, R193). -/

namespace Sys2Proof.Machine

/-- Every row of the pulse tables is an ICDF (43_excitation.md R192). -/
theorem pulseRow_wf (s : State) {r : Nat} (hr : r ≤ 10) : ∃ m, icdfWf m ((params s).pulseIcdf.getD r []) = true := by
  have h := rowsWf_getD (pulseRows_wf s) r [] (by omega)
  split at h
  · exact ⟨_, h⟩
  · exact ⟨_, (Bool.and_eq_true_iff.mp h).1⟩

theorem pulseRow_served (s : State) {r : Nat} (hr : r ≤ 10) (c : Cursor) :
    (sym ((params s).pulseIcdf.getD r []) c).2.served = c.served + 1 := by
  obtain ⟨m, h⟩ := pulseRow_wf s hr
  exact sym_served h c

/-- Each escape still allowed is at most one more request. -/
theorem escapes_served (s : State) (left pc : Nat) (c : Cursor) :
    c.served ≤ (escapes (params s).pulseIcdf left pc c).2.served ∧
      (escapes (params s).pulseIcdf left pc c).2.served ≤ c.served + left := by
  induction left generalizing pc c with
  | zero => exact ⟨le_refl _, le_refl _⟩
  | succ left ih =>
    simp only [escapes]
    split
    · have hrow : (if left = 0 then 10 else 9) ≤ 10 := by split <;> decide
      have hserved := pulseRow_served s hrow c
      obtain ⟨hlo, hhi⟩ := ih (sym ((params s).pulseIcdf.getD (if left = 0 then 10 else 9) []) c).1
        (sym ((params s).pulseIcdf.getD (if left = 0 then 10 else 9) []) c).2
      exact ⟨by omega, by omega⟩
    · exact ⟨le_refl _, Nat.le_add_right _ _⟩

/-- A block makes 1 to 11 requests (43_excitation.md R193). -/
theorem blockCount_served (s : State) {rate : Nat} (hrate : rate < 9) (c : Cursor) :
    c.served + 1 ≤ (blockCount (params s).pulseIcdf rate c).2.served ∧
      (blockCount (params s).pulseIcdf rate c).2.served ≤ c.served + 11 := by
  have hserved := pulseRow_served s (show rate ≤ 10 by omega) c
  obtain ⟨hlo, hhi⟩ := escapes_served s 10 (sym ((params s).pulseIcdf.getD rate []) c).1
    (sym ((params s).pulseIcdf.getD rate []) c).2
  rw [blockCount]
  exact ⟨by omega, by omega⟩

@[simp] theorem drawnCounts_length (s : State) : (drawnCounts s).length = blocks s := by
  simp [drawnCounts]

theorem excCounts_served {s : State} (hrate : s.work.rateLevel < 9) :
    s.cursor.served + blocks s ≤ (excCounts s).cursor.served ∧
      (excCounts s).cursor.served ≤ s.cursor.served + 11 * blocks s := by
  have h := drawEach_served (as := List.range (blocks s)) 1 11
    (fun _ _ c => blockCount_served s hrate c) s.cursor
  rwa [List.length_range, Nat.one_mul] at h

/-- One array of counts after EXC_COUNTS: a projection of the drawn counts in the blocks of the frame. -/
theorem rd_putFirst_drawnCounts (s : State) (v : Vector Nat 20) (g : Nat × Nat → Nat) (b : Nat) :
    rd (putFirst v ((drawnCounts s).map g)) b 0 =
      if b < blocks s then g ((drawnCounts s).getD b (0, 0)) else rd v b 0 := by
  rw [rd_putFirst _ _ _ _ (by simpa using blocks_le s), List.length_map, drawnCounts_length]
  split
  · next hb => simp [hb]
  · rfl

/-- `n` escapes, the last of those still allowed answered from row 10, and the count `pc`
(43_excitation.md R193). -/
theorem escapes_of_script {rows : List Icdf} {tab : Icdf} {left n pc k : Nat} {rest : List Nat} (hleft : left ≤ 10)
    (hn : n ≤ left) (hpc : pc ≤ 16) (hfirst : IsAnswer tab (if n = 0 then pc else 17))
    (hescape : 1 < n → IsAnswer (rows.getD 9 []) 17)
    (hlast : 0 < n → IsAnswer (rows.getD (if n = left then 10 else 9) []) pc) :
    escapes rows left (sym tab ⟨List.replicate n 17 ++ pc :: rest, k⟩).1
      (sym tab ⟨List.replicate n 17 ++ pc :: rest, k⟩).2 = ((pc, 10 - left + n), ⟨rest, k + n + 1⟩) := by
  induction n generalizing tab left k with
  | zero =>
    rw [if_pos rfl] at hfirst
    rw [List.replicate_zero, List.nil_append, sym_of_script hfirst]
    cases left with
    | zero => rfl
    | succ left =>
      rw [escapes, if_neg (show ¬pc = 17 by omega), show 9 - left = 10 - (left + 1) + 0 by omega, Nat.add_zero k]
  | succ n ih =>
    obtain ⟨left, rfl⟩ : ∃ l, left = l + 1 := ⟨left - 1, by omega⟩
    rw [if_neg (Nat.succ_ne_zero n)] at hfirst
    rw [List.replicate_succ, List.cons_append, sym_of_script hfirst, escapes, if_pos rfl,
      show 10 - (left + 1) + (n + 1) = 10 - left + n by omega, show k + (n + 1) + 1 = k + 1 + n + 1 by omega]
    refine ih (by omega) (by omega) ?_ (fun h => hescape (by omega)) fun h => ?_
    · by_cases h0 : n = 0
      · simpa [h0, eq_comm] using hlast (Nat.succ_pos n)
      · rw [if_neg h0, if_neg (show ¬left = 0 by omega)]
        exact hescape (by omega)
    · simpa using hlast (Nat.succ_pos n)

end Sys2Proof.Machine
end

section
/-! PROOFS. S.E_RAW after a command that replaces it in every block of the frame. -/

namespace Sys2Proof.Machine

theorem samples_le (s : State) : 16 * blocks s ≤ 320 := Nat.mul_le_mul_left 16 (blocks_le s)

/-- A sample of the frame holds the value that replaced it. -/
theorem rdI_putRaw {s : State} {xs : List Int} {i : Nat} {v : Int} (hlen : xs.length = 16 * blocks s)
    (hi : i < 16 * blocks s) (hget : xs.getD i 0 = v) (hv : Fits 32 v) : rdI (putRaw s xs) i = v := by
  subst hget
  obtain ⟨hlo, hhi⟩ := hv
  exact rdI_storeFirst _ _ xs i (hlen.trans_le (samples_le s)) (hi.trans_eq hlen.symm) (by decide) hlo hhi

/-- The samples after the frame are kept. -/
theorem rd_putRaw_of_ge {s : State} {xs : List Int} {i : Nat} (hlen : xs.length = 16 * blocks s)
    (hi : 16 * blocks s ≤ i) : rd (putRaw s xs) i 0 = rd s.work.eRaw i 0 :=
  rd_storeFirst_of_ge hlen (samples_le s) hi

end Sys2Proof.Machine
end

section
/-! PROOFS. EXC_SHELL: the partitions of a block (43_excitation.md R195). -/

namespace Sys2Proof.Machine

@[simp] theorem shellDecode_length (rows : List (List Icdf)) (h p : Nat) (c : Cursor) :
    (shellDecode rows h p c).1.length = 2 ^ h := by
  induction h generalizing p c with
  | zero => rfl
  | succ h ih =>
    simp only [shellDecode, List.length_append, ih]
    rw [pow_succ, mul_two]

/-- The pulses a partition gives its left half: none of none, else an answer (43_excitation.md R195). -/
def leftPulses (rows : List (List Icdf)) (h p : Nat) (c : Cursor) : Nat × Cursor :=
  if p = 0 then (0, c) else sym (shellTable rows h p) c

/-- The two halves of a partition of `p` pulses, `l` of them in the left one, the left half first
(43_excitation.md R195). -/
def shellHalves (rows : List (List Icdf)) (h p l : Nat) (c : Cursor) : List Nat × Cursor :=
  let left := shellDecode rows h l c
  let right := shellDecode rows h (p - l) left.2
  (left.1 ++ right.1, right.2)

theorem shellDecode_succ (rows : List (List Icdf)) (h p : Nat) (c : Cursor) : shellDecode rows (h + 1) p c =
    shellHalves rows h p (leftPulses rows h p c).1 (leftPulses rows h p c).2 := rfl

theorem leftPulses_spec (s : State) {h p : Nat} (hh : h < 4) (hp : p ≤ 16) (c : Cursor) :
    (leftPulses (params s).shellIcdf h p c).1 ≤ p ∧ c.served ≤ (leftPulses (params s).shellIcdf h p c).2.served ∧
      (leftPulses (params s).shellIcdf h p c).2.served ≤ c.served + 1 := by
  rw [leftPulses]
  split
  · exact ⟨Nat.zero_le p, le_refl _, Nat.le_succ _⟩
  · have htab := shellTable_wf s hh (show 1 ≤ p by omega) hp
    have hserved := sym_served htab c
    exact ⟨Nat.le_of_lt_succ (sym_lt htab c), by omega, hserved.le⟩

/-- The magnitudes of a partition sum to its pulse count, and it makes one request less than it has samples, at
most (43_excitation.md R195). -/
theorem shellDecode_spec (s : State) {h p : Nat} (hh : h ≤ 4) (hp : p ≤ 16) (c : Cursor) :
    (shellDecode (params s).shellIcdf h p c).1.sum = p ∧
      c.served ≤ (shellDecode (params s).shellIcdf h p c).2.served ∧
      (shellDecode (params s).shellIcdf h p c).2.served + 1 ≤ c.served + 2 ^ h := by
  induction h generalizing p c with
  | zero => exact ⟨List.sum_singleton, le_refl _, le_refl _⟩
  | succ h ih =>
    obtain ⟨hle, hfirst, hfirst'⟩ := leftPulses_spec s (show h < 4 by omega) hp c
    rw [shellDecode_succ, shellHalves]
    obtain ⟨hsumL, hleft, hleft'⟩ := ih (by omega) (hle.trans hp) (leftPulses (params s).shellIcdf h p c).2
    obtain ⟨hsumR, hright, hright'⟩ := ih (by omega) ((Nat.sub_le p _).trans hp)
      (shellDecode (params s).shellIcdf h (leftPulses (params s).shellIcdf h p c).1
        (leftPulses (params s).shellIcdf h p c).2).2
    exact ⟨by rw [List.sum_append, hsumL, hsumR, Nat.add_sub_cancel' hle], by dsimp only; omega, by dsimp only; omega⟩

theorem leftPulses_drawsFrom {rows : List (List Icdf)} {h p l : Nat} (hl : l ≤ p)
    (hans : 0 < p → IsAnswer (shellTable rows h p) l) :
    DrawsFrom (leftPulses rows h p) (if p = 0 then [] else [(shellTable rows h p, l)]) l := by
  by_cases hp : p = 0
  · have hcase : leftPulses rows h p = fun c => (0, c) := funext fun c => if_pos hp
    rw [if_pos hp, hcase, show l = 0 by omega]
    exact drawsFrom_pure 0
  · have hcase : leftPulses rows h p = sym (shellTable rows h p) := funext fun c => if_neg hp
    rw [if_neg hp, hcase]
    exact drawsFrom_sym (hans (Nat.pos_of_ne_zero hp))

/-- A partition with the splits of given magnitudes answered decodes to them (43_excitation.md R195). -/
theorem shellDecode_drawsFrom {rows : List (List Icdf)} {h : Nat} {ms : List Nat} (hlen : ms.length = 2 ^ h)
    (hans : ∀ p ∈ shellRequests rows h ms, IsAnswer p.1 p.2) :
    DrawsFrom (shellDecode rows h ms.sum) (shellRequests rows h ms) ms := by
  induction h generalizing ms with
  | zero =>
    obtain ⟨m, rfl⟩ := List.length_eq_one_iff.mp hlen
    exact drawsFrom_pure [m]
  | succ h ih =>
    rw [pow_succ] at hlen
    simp only [shellRequests, List.mem_append] at hans ⊢
    have hsplit : (ms.take (2 ^ h)).sum + (ms.drop (2 ^ h)).sum = ms.sum := by
      rw [← List.sum_append, List.take_append_drop]
    have hfirst := leftPulses_drawsFrom (rows := rows) (h := h) (l := (ms.take (2 ^ h)).sum) (p := ms.sum)
      (by omega) fun hp => hans (_, _) (.inl (.inl (by rw [if_neg hp.ne']; exact List.mem_singleton_self _)))
    have hleft := ih (ms := ms.take (2 ^ h)) (by rw [List.length_take]; omega) fun p hp => hans p (.inl (.inr hp))
    have hright := ih (ms := ms.drop (2 ^ h)) (by rw [List.length_drop]; omega) fun p hp => hans p (.inr hp)
    rw [show (ms.drop (2 ^ h)).sum = ms.sum - (ms.take (2 ^ h)).sum by omega] at hright
    have hhalves := hleft.bind (second := fun xs c =>
      (xs ++ (shellDecode rows h (ms.sum - (ms.take (2 ^ h)).sum) c).1,
        (shellDecode rows h (ms.sum - (ms.take (2 ^ h)).sum) c).2)) (hright.map (ms.take (2 ^ h) ++ ·))
    rw [List.take_append_drop] at hhalves
    rw [List.append_assoc]
    exact hfirst.bind (second := shellHalves rows h ms.sum) hhalves

/-! ### The blocks of a frame -/

/-- An element of a list of lists of `n` elements each. -/
theorem getD_flatten_of_length {α : Type} {n : Nat} {xss : List (List α)} (h : ∀ xs ∈ xss, xs.length = n) (b : Nat)
    {i : Nat} (d : α) (hi : i < n) : xss.flatten.getD (n * b + i) d = (xss.getD b []).getD i d := by
  induction xss generalizing b with
  | nil => rfl
  | cons xs xss ih =>
    have hlen := h xs List.mem_cons_self
    rw [List.flatten_cons]
    cases b with
    | zero =>
      rw [Nat.mul_zero, Nat.zero_add, List.getD_append _ _ _ _ (by omega)]
      rfl
    | succ b =>
      rw [Nat.mul_succ, List.getD_append_right _ _ _ _ (by omega), hlen,
        show n * b + n + i - n = n * b + i by omega]
      exact ih (fun ys hys => h ys (List.mem_cons_of_mem _ hys)) b

theorem drawnMagnitudes_row_length (s : State) : ∀ ms ∈ drawnMagnitudes s, ms.length = 16 := by
  intro ms hms
  obtain ⟨b, -, c, rfl⟩ := exists_of_mem_drawEach hms
  exact shellDecode_length _ 4 _ c

/-- The integers EXC_SHELL stores. -/
def storedMagnitudes (s : State) : List Int := (drawnMagnitudes s).flatten.map fun (m : Nat) => (m : Int)

@[simp] theorem storedMagnitudes_length (s : State) : (storedMagnitudes s).length = 16 * blocks s := by
  rw [storedMagnitudes, List.length_map, List.length_flatten, List.map_congr_left (drawnMagnitudes_row_length s),
    List.map_const', List.sum_const_nat, drawnMagnitudes, drawEach_length, List.length_range, Nat.mul_comm]

theorem storedMagnitudes_getD {s : State} {b i : Nat} (hi : i < 16) :
    (storedMagnitudes s).getD (16 * b + i) 0 = (((drawnMagnitudes s).getD b []).getD i 0 : Nat) := by
  rw [← getD_flatten_of_length (drawnMagnitudes_row_length s) b 0 hi]
  exact List.getD_map (d := 0) (f := fun (m : Nat) => (m : Int)) ..

theorem exists_drawnBlock (s : State) : ∃ cur : Nat → Cursor, ∀ b, b < blocks s →
    (drawnMagnitudes s).getD b [] = (shellDecode (params s).shellIcdf 4 (rd s.work.pulseCount b 0) (cur b)).1 :=
  exists_drawEach_range _ _ _ _

/-- The magnitudes of a block are 16, none exceeds its pulse count, and they sum to it (43_excitation.md R195). -/
theorem drawnBlock_spec {s : State} {b : Nat} (hb : b < blocks s) (hcount : rd s.work.pulseCount b 0 ≤ 16) :
    ((drawnMagnitudes s).getD b []).length = 16 ∧
      (∀ m ∈ (drawnMagnitudes s).getD b [], m ≤ rd s.work.pulseCount b 0) ∧
      ((drawnMagnitudes s).getD b []).sum = rd s.work.pulseCount b 0 := by
  obtain ⟨cur, hcur⟩ := exists_drawnBlock s
  obtain ⟨hsum, -⟩ := shellDecode_spec s (le_refl 4) hcount (cur b)
  rw [hcur b hb]
  exact ⟨shellDecode_length _ 4 _ _, shellDecode_le s (le_refl 4) hcount (cur b), hsum⟩

/-- EXC_SHELL stores the magnitudes of every block that decodes to at most 16 pulses. -/
theorem rdI_excShell {s : State} {b i : Nat} (hb : b < blocks s) (hi : i < 16)
    (hcount : rd s.work.pulseCount b 0 ≤ 16) :
    rdI (excShell s).work.eRaw (16 * b + i) = (((drawnMagnitudes s).getD b []).getD i 0 : Nat) := by
  obtain ⟨hlen, hle, -⟩ := drawnBlock_spec hb hcount
  have hmag : ((drawnMagnitudes s).getD b []).getD i 0 ≤ 16 := by
    rw [List.getD_eq_getElem _ _ (by omega)]
    exact (hle _ (List.getElem_mem _)).trans hcount
  exact rdI_putRaw (storedMagnitudes_length s) (by omega) (storedMagnitudes_getD hi) (fits32 (by omega) (by omega))

/-- The magnitudes EXC_SHELL stores in a block sum to its pulse count (43_excitation.md R195). -/
theorem excShell_sum {s : State} {b : Nat} (hb : b < blocks s) (hcount : rd s.work.pulseCount b 0 ≤ 16) :
    sumI ((List.range 16).map fun i => rdI (excShell s).work.eRaw (16 * b + i)) = rd s.work.pulseCount b 0 := by
  obtain ⟨hlen, -, hsum⟩ := drawnBlock_spec hb hcount
  have hblock : (List.range 16).map (fun i => rdI (excShell s).work.eRaw (16 * b + i)) =
      ((List.range ((drawnMagnitudes s).getD b []).length).map (((drawnMagnitudes s).getD b []).getD · 0)).map
        fun (m : Nat) => (m : Int) := by
    rw [hlen, List.map_map]
    exact List.map_congr_left fun i hi => rdI_excShell hb (List.mem_range.mp hi) hcount
  rw [hblock, map_getD_range, sumI, ← List.sum_eq_foldl, ← hsum, Nat.cast_list_sum]

/-- EXC_SHELL makes at most 15 requests a block (43_excitation.md R195). -/
theorem excShell_served {s : State} (hcount : ∀ b, b < blocks s → rd s.work.pulseCount b 0 ≤ 16) :
    (excShell s).cursor.served ≤ s.cursor.served + 15 * blocks s := by
  have hblock : ∀ b ∈ List.range (blocks s), ∀ c : Cursor,
      c.served + 0 ≤ (shellDecode (params s).shellIcdf 4 (rd s.work.pulseCount b 0) c).2.served ∧
        (shellDecode (params s).shellIcdf 4 (rd s.work.pulseCount b 0) c).2.served ≤ c.served + 15 := by
    intro b hb c
    obtain ⟨-, hlo, hhi⟩ := shellDecode_spec s (le_refl 4) (hcount b (List.mem_range.mp hb)) c
    exact ⟨hlo, by omega⟩
  obtain ⟨-, h⟩ := drawEach_served 0 15 hblock s.cursor
  rwa [List.length_range] at h

/-- EXC_SHELL with the splits of given magnitudes answered, block by block (43_excitation.md R195). -/
theorem excShell_of_answers {s : State} {mags : Nat → List Nat} {rest : List Nat}
    (hmags : ∀ b, b < blocks s → (mags b).length = 16 ∧ (mags b).sum = rd s.work.pulseCount b 0)
    (hans : Answers s ((List.range (blocks s)).flatMap fun b => shellRequests (params s).shellIcdf 4 (mags b)) rest) :
    drawnMagnitudes s = (List.range (blocks s)).map mags ∧ (excShell s).cursor = ⟨rest, s.cursor.served +
      ((List.range (blocks s)).flatMap fun b => shellRequests (params s).shellIcdf 4 (mags b)).length⟩ := by
  have hdraw := drawEach_of_answers
    (f := fun b => shellDecode (params s).shellIcdf 4 (rd s.work.pulseCount b 0)) (y := mags) hans fun b hb hans => by
      obtain ⟨hlen, hsum⟩ := hmags b (List.mem_range.mp hb)
      rw [← hsum]
      exact shellDecode_drawsFrom hlen hans
  exact ⟨congrArg Prod.fst hdraw, congrArg Prod.snd hdraw⟩

end Sys2Proof.Machine
end

section
/-! PROOFS. EXC_LSB: the bits behind a magnitude (43_excitation.md R196). -/

namespace Sys2Proof.Machine

theorem shl_one (m : Int) : shl m 1 = 2 * m := mul_comm m 2

/-- A refined magnitude is the magnitude with so many bits behind it (43_excitation.md R196). -/
theorem refine_eq (s : State) (bits : Nat) (m : Int) (c : Cursor) :
    ∃ v : Nat, v < 2 ^ bits ∧ (refine (params s).lsbIcdf bits m c).1 = m * 2 ^ bits + v := by
  induction bits generalizing m c with
  | zero => exact ⟨0, Nat.one_pos, by simp [refine]⟩
  | succ bits ih =>
    have hbit := sym_lt (lsbTable_wf s) c
    obtain ⟨v, hv, heq⟩ := ih (shl m 1 + (sym (params s).lsbIcdf c).1) (sym (params s).lsbIcdf c).2
    refine ⟨(sym (params s).lsbIcdf c).1 * 2 ^ bits + v, ?_, ?_⟩
    · calc (sym (params s).lsbIcdf c).1 * 2 ^ bits + v
          < 1 * 2 ^ bits + 2 ^ bits := Nat.add_lt_add_of_le_of_lt (Nat.mul_le_mul_right _ (by omega)) hv
        _ = 2 ^ (bits + 1) := by ring
    · rw [refine, heq, shl_one]
      push_cast
      ring

theorem refine_served (s : State) (bits : Nat) (m : Int) (c : Cursor) :
    (refine (params s).lsbIcdf bits m c).2.served = c.served + bits := by
  induction bits generalizing m c with
  | zero => rfl
  | succ bits ih =>
    rw [refine, ih, sym_served (lsbTable_wf s)]
    omega

/-- A refinement with its bits answered doubles the magnitude before each (43_excitation.md R196). -/
theorem refine_drawsFrom {lsb : Icdf} {bits : List Nat} (m : Int) (hans : ∀ b ∈ bits, IsAnswer lsb b) :
    DrawsFrom (refine lsb bits.length m) (bits.map (lsb, ·)) (bits.foldl (fun (m : Int) b => 2 * m + b) m) := by
  induction bits generalizing m with
  | nil => exact drawsFrom_pure m
  | cons b bits ih =>
    have htail := ih (shl m 1 + b) fun b' hb' => hans b' (List.mem_cons_of_mem _ hb')
    rw [shl_one] at htail
    refine (drawsFrom_sym (hans b List.mem_cons_self)).bind
      (second := fun b : Nat => refine lsb bits.length (shl m 1 + b)) ?_
    rw [shl_one]
    exact htail

@[simp] theorem refinedMagnitudes_length (s : State) : (refinedMagnitudes s).length = 16 * blocks s := by
  simp [refinedMagnitudes]

theorem exists_refined (s : State) : ∃ cur : Nat → Cursor, ∀ i, i < 16 * blocks s → (refinedMagnitudes s).getD i 0 =
    (refine (params s).lsbIcdf (rd s.work.lsbCount (i / 16) 0) (rdI s.work.eRaw i) (cur i)).1 :=
  exists_drawEach_range _ _ _ _

/-- A magnitude of at most 16 with at most ten bits behind it fits its element, so that EXC_LSB stores it
(43_excitation.md R196). -/
theorem rdI_excLsb {s : State} {i : Nat} (hi : i < 16 * blocks s) (hcount : rd s.work.lsbCount (i / 16) 0 ≤ 10)
    (hlo : 0 ≤ rdI s.work.eRaw i) (hhi : rdI s.work.eRaw i ≤ 16) :
    rdI (excLsb s).work.eRaw i = (refinedMagnitudes s).getD i 0 := by
  obtain ⟨cur, hcur⟩ := exists_refined s
  obtain ⟨hnonneg, hlt⟩ := refine_bounds s (rd s.work.lsbCount (i / 16) 0) hlo (cur i)
  have hpow : (2 : Int) ^ rd s.work.lsbCount (i / 16) 0 ≤ 2 ^ 10 := pow_le_pow_right₀ (by decide) hcount
  have hmax : (rdI s.work.eRaw i + 1) * 2 ^ rd s.work.lsbCount (i / 16) 0 ≤ 17 * 2 ^ 10 :=
    mul_le_mul (by omega) hpow (by positivity) (by decide)
  rw [← hcur i hi] at hnonneg hlt
  exact rdI_putRaw (refinedMagnitudes_length s) hi rfl (fits32 (by omega) (by omega))

theorem excLsb_served (s : State) : (excLsb s).cursor.served = s.cursor.served +
    ((List.range (blocks s)).map fun b => 16 * rd s.work.lsbCount b 0).sum := by
  rw [← sum_map_range_blocks]
  exact drawEach_served_sum
    (fun i _ c => refine_served s (rd s.work.lsbCount (i / 16) 0) (rdI s.work.eRaw i) c) s.cursor

/-- EXC_LSB with the bits of every sample answered (43_excitation.md R196). -/
theorem excLsb_of_answers {s : State} {bits : Nat → List Nat} {rest : List Nat}
    (hlen : ∀ i, i < 16 * blocks s → (bits i).length = rd s.work.lsbCount (i / 16) 0)
    (hans : Answers s ((List.range (16 * blocks s)).flatMap fun i => (bits i).map ((params s).lsbIcdf, ·)) rest) :
    refinedMagnitudes s = (List.range (16 * blocks s)).map
        (fun i => (bits i).foldl (fun (m : Int) b => 2 * m + b) (rdI s.work.eRaw i)) ∧
      (excLsb s).cursor = ⟨rest, s.cursor.served +
        ((List.range (16 * blocks s)).flatMap fun i => (bits i).map ((params s).lsbIcdf, ·)).length⟩ := by
  have hdraw := drawEach_of_answers
    (f := fun i => refine (params s).lsbIcdf (rd s.work.lsbCount (i / 16) 0) (rdI s.work.eRaw i))
    (y := fun i => (bits i).foldl (fun (m : Int) b => 2 * m + b) (rdI s.work.eRaw i)) hans fun i hi hans => by
      rw [← hlen i (List.mem_range.mp hi)]
      exact refine_drawsFrom _ fun b hb => hans (_, b) (List.mem_map_of_mem hb)
  exact ⟨congrArg Prod.fst hdraw, congrArg Prod.snd hdraw⟩

end Sys2Proof.Machine
end

section
/-! PROOFS. EXC_SIGNS: the sign of a sample (43_excitation.md R197). -/

namespace Sys2Proof.Machine

/-- The sign tables have seven rows, each an ICDF of two entries (43_excitation.md R198). -/
theorem signTable_wf (s : State) (count : Nat) : icdfWf 2 (signTable s count) = true := by
  obtain ⟨-, -, -, -, -, -, -, -, -, -, -, h⟩ := params_wf s
  simp only [excWf, Bool.and_eq_true] at h
  obtain ⟨⟨⟨-, hinactive⟩, hunvoiced⟩, hvoiced⟩ := h
  have hsig : signsWf (forSigType (params s).signIcdf s.frame.sigType) = true := by
    cases s.frame.sigType <;> assumption
  simp only [signsWf, Bool.and_eq_true] at hsig
  have hrows : rowsWf 7 (fun _ => icdfWf 2)
      (forQOff (forSigType (params s).signIcdf s.frame.sigType) s.frame.qoff) = true := by
    cases s.frame.qoff
    · exact hsig.1
    · exact hsig.2
  exact rowsWf_getD hrows (min count 6) [] (by omega)

theorem signed_of_reads {s : State} {i : Nat} (h : ReadsSign s i) (c : Cursor) : signed s i c =
    (if (sym (signTable s (rd s.work.pulseCount (i / 16) 0)) c).1 = 0 then -rdI s.work.eRaw i else rdI s.work.eRaw i,
      (sym (signTable s (rd s.work.pulseCount (i / 16) 0)) c).2) := if_pos h

theorem signed_of_not_reads {s : State} {i : Nat} (h : ¬ReadsSign s i) (c : Cursor) :
    signed s i c = (rdI s.work.eRaw i, c) := if_neg h

/-- A sample is kept, or turned where its sign is read (43_excitation.md R197). -/
theorem signed_eq_or_reads (s : State) (i : Nat) (c : Cursor) : (signed s i c).1 = rdI s.work.eRaw i ∨
    (signed s i c).1 = -rdI s.work.eRaw i ∧ ReadsSign s i := by
  by_cases h : ReadsSign s i
  · exact (signed_eq_or s i c).imp_right (⟨·, h⟩)
  · exact .inl (congrArg Prod.fst (signed_of_not_reads h c))

theorem signed_served (s : State) (i : Nat) (c : Cursor) :
    (signed s i c).2.served = c.served + if ReadsSign s i then 1 else 0 := by
  by_cases h : ReadsSign s i
  · rw [signed_of_reads h, if_pos h]
    exact sym_served (signTable_wf s _) c
  · rw [signed_of_not_reads h, if_neg h, Nat.add_zero]

/-- A sample with its sign answered, where one is read (43_excitation.md R197). -/
theorem signed_drawsFrom {s : State} {i a : Nat}
    (hans : ReadsSign s i → IsAnswer (signTable s (rd s.work.pulseCount (i / 16) 0)) a) :
    DrawsFrom (signed s i)
      (if ReadsSign s i then [(signTable s (rd s.work.pulseCount (i / 16) 0), a)] else [])
      (if ReadsSign s i ∧ a = 0 then -rdI s.work.eRaw i else rdI s.work.eRaw i) := by
  by_cases h : ReadsSign s i
  · rw [if_pos h, show signed s i = _ from funext (signed_of_reads h), if_congr (and_iff_right h) rfl rfl]
    exact (drawsFrom_sym (hans h)).map fun a => if a = 0 then -rdI s.work.eRaw i else rdI s.work.eRaw i
  · rw [if_neg h, if_neg (h ·.1), show signed s i = _ from funext (signed_of_not_reads h)]
    exact drawsFrom_pure _

@[simp] theorem signedValues_length (s : State) : (signedValues s).length = 16 * blocks s := by
  simp [signedValues]

theorem exists_signed (s : State) : ∃ cur : Nat → Cursor, ∀ i, i < 16 * blocks s →
    (signedValues s).getD i 0 = (signed s i (cur i)).1 := exists_drawEach_range _ _ _ _

/-- What an element holds fits it, and so does its opposite where it is positive. -/
theorem signed_fits (s : State) (i : Nat) (c : Cursor) : Fits 32 (signed s i c).1 := by
  have hlo : -2147483648 ≤ rdI s.work.eRaw i := BitVec.le_toInt _
  have hhi : rdI s.work.eRaw i < 2147483648 := BitVec.toInt_lt
  rcases signed_eq_or_reads s i c with h | ⟨h, -, hpos⟩ <;> rw [h] <;> exact fits32 (by omega) (by omega)

theorem rdI_excSigns {s : State} {i : Nat} (hi : i < 16 * blocks s) :
    rdI (excSigns s).work.eRaw i = (signedValues s).getD i 0 := by
  obtain ⟨cur, hcur⟩ := exists_signed s
  exact rdI_putRaw (signedValues_length s) hi rfl (hcur i hi ▸ signed_fits s i (cur i))

theorem excSigns_served (s : State) : (excSigns s).cursor.served = s.cursor.served +
    ((List.range (16 * blocks s)).filter fun i => ReadsSign s i).length := by
  rw [← sum_map_ite_one]
  exact drawEach_served_sum (fun i _ c => signed_served s i c) s.cursor

/-- EXC_SIGNS with the signs it reads answered, in sample order (43_excitation.md R197). -/
theorem excSigns_of_answers {s : State} {ans : Nat → Nat} {rest : List Nat}
    (hans : Answers s (((List.range (16 * blocks s)).filter fun i => ReadsSign s i).map
      fun i => (signTable s (rd s.work.pulseCount (i / 16) 0), ans i)) rest) :
    signedValues s = (List.range (16 * blocks s)).map
        (fun i => if ReadsSign s i ∧ ans i = 0 then -rdI s.work.eRaw i else rdI s.work.eRaw i) ∧
      (excSigns s).cursor.script = rest := by
  rw [map_filter_eq_flatMap] at hans
  have hdraw := drawEach_of_answers (f := signed s)
    (y := fun i => if ReadsSign s i ∧ ans i = 0 then -rdI s.work.eRaw i else rdI s.work.eRaw i) hans
    fun i _ hans => signed_drawsFrom fun hread =>
      hans (_, ans i) (by rw [if_pos hread]; exact List.mem_singleton_self _)
  exact ⟨congrArg Prod.fst hdraw, congrArg (·.2.script) hdraw⟩

end Sys2Proof.Machine
end

section
/-! PROOFS. EXC_RECON: the generator and the dequantised values (43_excitation.md R199). -/

namespace Sys2Proof.Machine

/-- The generator at sample `i`: stepped from the seed, and from then on from its last state and the last pulse
together (43_excitation.md R199). -/
def generator (a c : Word) (raw : Nat → Word) (seed : Word) : Nat → Word
  | 0 => lcgStep a c seed
  | i + 1 => lcgStep a c (generator a c raw seed i + raw i)

/-- Starting one sample later. -/
theorem generator_succ (a c : Word) (raw : Nat → Word) (seed : Word) (i : Nat) :
    generator a c raw seed (i + 1) = generator a c (fun k => raw (k + 1)) (lcgStep a c seed + raw 0) i := by
  induction i with
  | zero => rfl
  | succ i ih => rw [generator, ih, generator]

@[simp] theorem reconstruct_length (a c : Word) (off : Int) (raws : List Word) (seed : Word) :
    (reconstruct a c off raws seed).length = raws.length := by
  induction raws generalizing seed with
  | nil => rfl
  | cons raw raws ih => rw [reconstruct, List.length_cons, ih, List.length_cons]

/-- A dequantised value with the sign the generator gives it (43_excitation.md R199). -/
def withSign (lcg : Word) (e : Int) : Int := if lcg.msb then -e else e

theorem reconstruct_getD (a c : Word) (off : Int) {raws : List Word} {raw : Nat → Word} (seed : Word) {i : Nat}
    (hraw : ∀ k, k < raws.length → raws.getD k 0 = raw k) (hi : i < raws.length) :
    (reconstruct a c off raws seed).getD i 0 =
      withSign (generator a c raw seed i) (dequantised (raw i).toInt off) := by
  induction raws generalizing raw seed i with
  | nil => exact absurd hi (Nat.not_lt_zero i)
  | cons x raws ih =>
    have hx : x = raw 0 := hraw 0 (Nat.succ_pos _)
    subst hx
    cases i with
    | zero => rfl
    | succ i =>
      rw [generator_succ]
      exact ih (raw := fun k => raw (k + 1)) _ (fun k hk => hraw (k + 1) (Nat.succ_lt_succ hk))
        (Nat.lt_of_succ_lt_succ hi)

theorem nFrame_le (bw : Bandwidth) : nFrame bw ≤ 320 := by
  cases bw <;> decide

@[simp] theorem frameExcitation_length (s : State) : (frameExcitation s).length = nFrame s.frame.bw := by
  simp [frameExcitation, nFrame_le]

/-- The generator of the frame (43_excitation.md R199). -/
def frameGenerator (s : State) : Nat → Word :=
  generator (params s).lcgA (params s).lcgC (rd s.work.eRaw · 0) (BitVec.ofNat 32 s.work.seed)

theorem frameExcitation_getD (s : State) {i : Nat} (hi : i < nFrame s.frame.bw) : (frameExcitation s).getD i 0 =
    withSign (frameGenerator s i) (dequantised (rdI s.work.eRaw i) (excOffset s)) := by
  have hlen : (s.work.eRaw.toList.take (nFrame s.frame.bw)).length = nFrame s.frame.bw := by simp [nFrame_le]
  refine reconstruct_getD _ _ _ _ (fun k hk => ?_) (hi.trans_eq hlen.symm)
  rw [hlen] at hk
  simp [rd, hk]

theorem signI_bounds (v : Int) : -1 ≤ signI v ∧ signI v ≤ 1 := by
  rw [signI]
  split
  · decide
  · split <;> decide

/-- A dequantised value lies within `17407 · 256 + 20` of the offset (43_excitation.md R196, R199). -/
theorem dequantised_bounds {raw : Int} (off : Int) (hlo : -17407 ≤ raw) (hhi : raw ≤ 17407) :
    off - 4456212 ≤ dequantised raw off ∧ dequantised raw off ≤ off + 4456212 := by
  obtain ⟨hslo, hshi⟩ := signI_bounds raw
  have hshl : shl raw 8 = raw * 256 := rfl
  rw [dequantised, hshl]
  omega

theorem withSign_bounds (lcg : Word) {e m : Int} (hlo : -m ≤ e) (hhi : e ≤ m) :
    -m ≤ withSign lcg e ∧ withSign lcg e ≤ m := by
  rw [withSign]
  split <;> omega

/-- With the magnitudes of 43_excitation.md R196 EXC_RECON stores the value of the generator's sign. -/
theorem rdI_excRecon {s : State} {i : Nat} (hi : i < nFrame s.frame.bw)
    (hraw : -17407 ≤ rdI s.work.eRaw i ∧ rdI s.work.eRaw i ≤ 17407)
    (hoff : -1073741824 ≤ excOffset s ∧ excOffset s ≤ 1073741824) : rdI (excRecon s).work.eQ23 i =
    withSign (frameGenerator s i) (dequantised (rdI s.work.eRaw i) (excOffset s)) := by
  obtain ⟨hlo, hhi⟩ := dequantised_bounds (excOffset s) hraw.1 hraw.2
  obtain ⟨hslo, hshi⟩ := withSign_bounds (m := 1078198036) (frameGenerator s i)
    (e := dequantised (rdI s.work.eRaw i) (excOffset s)) (by omega) (by omega)
  have hlen := frameExcitation_length s
  rw [← frameExcitation_getD s hi] at hslo hshi ⊢
  obtain ⟨hlo, hhi⟩ := fits32 (x := (frameExcitation s).getD i 0) (by omega) (by omega)
  exact rdI_storeFirst _ _ _ i (hlen.trans_le (nFrame_le _)) (hi.trans_eq hlen.symm) (by decide) hlo hhi

/-- The offset of the frame's classes, as the statements write it. -/
theorem excOffset_eq (s : State) : excOffset s =
    (let v := if s.frame.sigType = .voiced then (params s).qoffsetQ23.voiced else (params s).qoffsetQ23.unvoiced
     if s.frame.qoff = .low then v.low else v.high) := by
  rw [excOffset, forVoicing_eq]
  cases s.frame.qoff <;> rfl

end Sys2Proof.Machine
end

section
/-! PROOFS. The statements of 43_excitation.md, settled. -/

open Sys2Proof Sys2Proof.Machine

/-- Settles O40: both tables are ICDFs, of 4 and of 9 entries. -/
theorem seedAndRateStoreOneAnswer : Obligations.SeedAndRateStoreOneAnswer := by
  refine fun s => ⟨fun hinterp hseed hvoiced => ?_, fun hseed hrate => ?_⟩
  · obtain ⟨hans, hlt, hserved, -⟩ := sym_spec (seedTable_wf s) s.cursor
    exact ⟨_, exec_excSeed hinterp hseed hvoiced, hans, hlt, hserved, rfl⟩
  · obtain ⟨hans, hlt, hserved, -⟩ := sym_spec (rateTable_wf s) s.cursor
    refine ⟨_, command_after (x := .seed) (b := .rate) excRate hseed hrate, ?_, hlt, hserved, rfl⟩
    rw [← forVoicing_eq]
    exact hans

/-- Settles O41: the bounds of a block's counts and requests hold whatever the cursor answers. -/
theorem excCountsStayInRange : Obligations.ExcCountsStayInRange := by
  intro s hrate hcounts hlevel
  obtain ⟨hlo, hhi⟩ := excCounts_served hlevel
  refine ⟨_, command_after (x := .rate) (b := .counts) excCounts hrate hcounts, fun b (hb : b < blocks s) => ?_,
    fun b (hb : blocks s ≤ b) => ?_, hlo, hhi, rfl⟩
  · have hlen : b < (drawnCounts s).length := by simpa using hb
    rw [complete_work, excCounts_work, rd_putFirst_drawnCounts, rd_putFirst_drawnCounts, if_pos hb, if_pos hb,
      List.getD_eq_getElem _ _ hlen]
    exact drawnCounts_le hlevel _ (List.getElem_mem hlen)
  · rw [complete_work, excCounts_work, rd_putFirst_drawnCounts, rd_putFirst_drawnCounts, if_neg (by omega),
      if_neg (by omega)]
    exact ⟨rfl, rfl⟩

/-- Settles O42: of the ten escapes a block allows `n` are used, and the tenth leaves row 10 for the count. -/
theorem escapesCountTheLsbLevels : Obligations.EscapesCountTheLsbLevels := by
  intro tables rate n pc k rest hrate hn hpc hescapes hlast
  have hfirst : IsAnswer (tables.val.pulseIcdf.getD rate []) (if n = 0 then pc else 17) := by
    by_cases h0 : n = 0
    · simpa [h0] using hlast
    · simpa [h0] using hescapes 0 (by omega)
  have h := escapes_of_script (k := k) (rest := rest) (le_refl 10) hn hpc hfirst (fun h => hescapes 1 h)
    fun h => by rwa [if_neg h.ne'] at hlast
  rwa [show 10 - 10 + n = n by omega] at h

/-- Settles O43: a split leaves the right half what it takes from the left. -/
theorem shellMagnitudesSumToThePulseCount : Obligations.ShellMagnitudesSumToThePulseCount := by
  refine ⟨fun s hcounts hshell hle => ?_, fun s mags rest hcounts hshell hmags hans => ?_⟩
  · refine ⟨_, command_after (x := .counts) (b := .shell) excShell hcounts hshell, fun b hb => ?_, fun i hi => ?_,
      fun i hi => rd_putRaw_of_ge (storedMagnitudes_length s) hi, excShell_served hle, rfl⟩
    · rw [complete_work, excShell_sum hb (hle b hb)]
    · have hb : i / 16 < nShell s.frame.bw := by omega
      have hstored := rdI_excShell hb (Nat.mod_lt i (by decide)) (hle _ hb)
      rw [Nat.div_add_mod] at hstored
      rw [complete_work, hstored]
      exact Int.natCast_nonneg _
  · obtain ⟨hdrawn, hcursor⟩ := excShell_of_answers (s := s) (fun b hb => ⟨(hmags b hb).1, (hmags b hb).2.1⟩) hans
    refine ⟨_, command_after (x := .counts) (b := .shell) excShell hcounts hshell, hcursor, fun b i hb hi => ?_⟩
    have hb' : b < blocks s := hb
    rw [complete_work, rdI_excShell hb hi (hmags b hb).2.2, hdrawn]
    simp [hb']

/-- Settles O44: every bit doubles the magnitude, and ten bits behind 16 fit an int32. -/
theorem lsbRefinementAppendsTheBits : Obligations.LsbRefinementAppendsTheBits := by
  refine ⟨fun s hshell hlsb hcount hraw => ?_, fun s bits rest hshell hlsb hbits hans => ?_⟩
  · refine ⟨_, command_after (x := .shell) (b := .lsb) excLsb hshell hlsb, fun i hi => ?_,
      fun i hi => rd_putRaw_of_ge (refinedMagnitudes_length s) hi, excLsb_served s, rfl⟩
    obtain ⟨hlo, hhi⟩ := hraw i hi
    obtain ⟨cur, hcur⟩ := exists_refined s
    rw [complete_work, rdI_excLsb hi (hcount _ (by omega)) hlo hhi, hcur i hi]
    exact refine_eq s _ _ _
  · obtain ⟨hdrawn, hcursor⟩ := excLsb_of_answers (s := s) (fun i hi => (hbits i hi).1) hans
    refine ⟨_, command_after (x := .shell) (b := .lsb) excLsb hshell hlsb, hcursor, fun i hi => ?_⟩
    obtain ⟨-, hcount, hlo, hhi⟩ := hbits i hi
    have hi' : i < 16 * blocks s := hi
    rw [complete_work, rdI_excLsb hi hcount hlo hhi, hdrawn]
    simp [hi']

/-- Settles O45, sample by sample. -/
theorem signsKeepMagnitudes : Obligations.SignsKeepMagnitudes := by
  refine ⟨fun s hlsb hsigns => ?_, fun s ans rest hlsb hsigns hans => ?_⟩
  · refine ⟨_, command_after (x := .lsb) (b := .signs) excSigns hlsb hsigns, fun i hi => ?_,
      fun i hi => rd_putRaw_of_ge (signedValues_length s) hi, excSigns_served s, rfl⟩
    obtain ⟨cur, hcur⟩ := exists_signed s
    rw [complete_work, rdI_excSigns hi, hcur i hi]
    exact (signed_eq_or_reads s i (cur i)).imp_right fun ⟨hneg, hblock, hpos⟩ => ⟨hneg, hpos, hblock⟩
  · obtain ⟨hdrawn, hrest⟩ := excSigns_of_answers (s := s) hans
    refine ⟨_, command_after (x := .lsb) (b := .signs) excSigns hlsb hsigns, hrest, fun i hi => ?_⟩
    have hi' : i < 16 * blocks s := hi
    rw [complete_work, rdI_excSigns hi, hdrawn]
    simp [hi']

/-- Settles O46: the values of the frame fit an int32, so that each is held as computed. -/
theorem excReconFollowsTheGenerator : Obligations.ExcReconFollowsTheGenerator := by
  intro s hsigns herecon p v off hraw hlo hhi
  have hoff : excOffset s = off := excOffset_eq s
  rw [← hoff] at hlo hhi ⊢
  refine ⟨_, frameGenerator s, command_after (x := .signs) (b := .erecon) excRecon hsigns herecon, rfl,
    fun i _ => rfl, fun i hi => ?_,
    fun i hi => rd_storeFirst_of_ge (frameExcitation_length s) (nFrame_le _) hi, rfl⟩
  obtain ⟨hrlo, hrhi⟩ := hraw i hi
  rw [complete_work, rdI_excRecon hi ⟨hrlo, hrhi⟩ ⟨hlo, hhi⟩]
  refine ⟨rfl, fun hlo60 hhi60 => ?_⟩
  obtain ⟨hdlo, hdhi⟩ := dequantised_bounds (excOffset s) hrlo hrhi
  obtain ⟨hslo, hshi⟩ := withSign_bounds (m := 4456272) (frameGenerator s i)
    (e := dequantised (rdI s.work.eRaw i) (excOffset s)) (by omega) (by omega)
  omega

/-- Settles O55: the generator and the offset are functions of what the two states agree in. -/
theorem excitationDependsOnSeedClassesAndPulses : Obligations.ExcitationDependsOnSeedClassesAndPulses := by
  intro s s' hsigns herecon hsigns' herecon' htables hbw hsig hqoff hseed hpulses v off hraw hlo hhi
  have hoff : excOffset s = off := excOffset_eq s
  have hoff' : excOffset s' = off := by rw [← hoff, excOffset, excOffset, params, params, htables, hsig, hqoff]
  have hgen : frameGenerator s' = frameGenerator s := by
    rw [frameGenerator, frameGenerator, params, params, htables, hseed, hpulses]
  rw [← hoff] at hlo hhi
  refine ⟨_, _, command_after (x := .signs) (b := .erecon) excRecon hsigns herecon,
    command_after (x := .signs) (b := .erecon) excRecon hsigns' herecon', fun i hi => BitVec.eq_of_toInt_eq ?_⟩
  have h := rdI_excRecon hi (hraw i hi) ⟨hlo, hhi⟩
  have h' := rdI_excRecon (s := s') (hbw ▸ hi) (hpulses ▸ hraw i hi) (by rw [hoff', ← hoff]; exact ⟨hlo, hhi⟩)
  rw [hgen, hoff', ← hpulses, ← hoff] at h'
  exact h.trans h'.symm

end

section
/-! PROOFS. The values of binary32 bit patterns: what the pattern of a packed significand and exponent is worth, and
what every finite value is (44_synthesis.md R220). -/

namespace Sys2Proof.Machine

/-! ### Values -/

/-- A sign as a factor. -/
def signQ (neg : Bool) : ℚ := if neg then -1 else 1

@[simp] theorem signQ_mul_self (neg : Bool) : signQ neg * signQ neg = 1 := by
  cases neg <;> simp [signQ]

@[simp] theorem signQ_inv (neg : Bool) : (signQ neg)⁻¹ = signQ neg :=
  inv_eq_of_mul_eq_one_left (signQ_mul_self neg)

@[simp] theorem abs_signQ (neg : Bool) : |signQ neg| = 1 := by
  cases neg <;> simp [signQ]

theorem signQ_bne (n n' : Bool) : signQ (n != n') = signQ n * signQ n' := by
  cases n <;> cases n' <;> simp [signQ]

theorem signQ_not (neg : Bool) : signQ (!neg) = -signQ neg := by
  cases neg <;> simp [signQ]

theorem rationalOf_of_fin {x : F32} {neg : Bool} {m : Nat} {e : Int} (h : fpVal x = .fin neg m e) :
    rationalOf x = some (signQ neg * m * (2 : ℚ) ^ e) := by
  rw [rationalOf, h]
  rfl

theorem exists_fin_of_rationalOf {x : F32} {q : ℚ} (h : rationalOf x = some q) :
    ∃ neg m e, fpVal x = .fin neg m e ∧ q = signQ neg * m * (2 : ℚ) ^ e := by
  cases hx : fpVal x with
  | nan => simp [rationalOf, hx] at h
  | inf neg => simp [rationalOf, hx] at h
  | fin neg m e =>
    rw [rationalOf_of_fin hx] at h
    exact ⟨neg, m, e, rfl, (Option.some.inj h).symm⟩

/-- The value of a significand `q` at the exponent `E - 149`. -/
def packedValue (neg : Bool) (q E : Nat) : ℚ := signQ neg * (q * (2 : ℚ) ^ ((E : Int) - 149))

theorem signQ_mul_packedValue (neg n : Bool) (q E : Nat) :
    signQ neg * packedValue n q E = packedValue (neg != n) q E := by
  rw [packedValue, packedValue, signQ_bne, mul_assoc]

/-! ### Fields of a pattern -/

theorem fpBits_toNat (neg : Bool) {low : Nat} (h : low < 2 ^ 31) :
    (fpBits neg low).toNat = low + if neg then 2 ^ 31 else 0 := by
  rw [fpBits, BitVec.toNat_ofNat]
  cases neg
  · simp only [Bool.false_eq_true, if_false]
    omega
  · simp only [if_true]
    omega

@[simp] theorem fpBits_msb (neg : Bool) {low : Nat} (h : low < 2 ^ 31) : (fpBits neg low).msb = neg := by
  rw [BitVec.msb_eq_decide, fpBits_toNat neg h]
  cases neg
  · simp only [Bool.false_eq_true, if_false, decide_eq_false_iff_not]
    omega
  · simp

/-- The last bit of a pattern is that of its significand. -/
theorem fpBits_getLsbD_zero (neg : Bool) {low : Nat} (h : low < 2 ^ 31) (heven : low % 2 = 0) :
    (fpBits neg low).getLsbD 0 = false := by
  rw [BitVec.getLsbD, fpBits_toNat neg h, Nat.testBit_zero, decide_eq_false_iff_not]
  split <;> omega

theorem fpVal_fpInf (neg : Bool) : fpVal (fpInf neg) = .inf neg := by
  cases neg <;> decide +kernel

theorem fpInf_msb (neg : Bool) : (fpInf neg).msb = neg := fpBits_msb neg (by decide)

/-- The fields of a pattern whose exponent field is not all ones. -/
theorem fpVal_fpBits (neg : Bool) {ex fr : Nat} (hex : ex < 255) (hfr : fr < 2 ^ 23) :
    fpVal (fpBits neg (fr + ex * 2 ^ 23)) =
      if ex = 0 then .fin neg fr (-149) else .fin neg (2 ^ 23 + fr) (ex - 150) := by
  have hlow : fr + ex * 2 ^ 23 < 2 ^ 31 := by omega
  have hx : (fpBits neg (fr + ex * 2 ^ 23)).toNat / 2 ^ 23 % 2 ^ 8 = ex := by
    rw [fpBits_toNat neg hlow]
    split <;> omega
  have hf : (fpBits neg (fr + ex * 2 ^ 23)).toNat % 2 ^ 23 = fr := by
    rw [fpBits_toNat neg hlow]
    split <;> omega
  simp only [fpVal, hx, hf, fpBits_msb neg hlow, if_neg hex.ne]

/-- A significand `q` at the exponent `E - 149`, packed, keeps its value; with `q = 2^24` too, where the
carry goes into the exponent. -/
theorem rationalOf_fpBits (neg : Bool) {q E : Nat} (hq : q ≤ 2 ^ 24) (hE : E = 0 ∨ 2 ^ 23 ≤ q)
    (hlow : q + E * 2 ^ 23 < 255 * 2 ^ 23) :
    rationalOf (fpBits neg (q + E * 2 ^ 23)) = some (packedValue neg q E) := by
  rw [packedValue]
  rcases Nat.lt_or_ge q (2 ^ 23) with hsub | hnorm
  · obtain rfl : E = 0 := by omega
    have hv := fpVal_fpBits neg (ex := 0) (by decide) hsub
    rw [if_pos rfl] at hv
    rw [rationalOf_of_fin hv, mul_assoc]
    rfl
  · rcases Nat.lt_or_ge q (2 ^ 24) with hlt | hge
    · obtain ⟨fr, rfl⟩ := Nat.exists_eq_add_of_le hnorm
      have hv := fpVal_fpBits neg (ex := E + 1) (fr := fr) (by omega) (by omega)
      rw [if_neg (Nat.succ_ne_zero E), show fr + (E + 1) * 2 ^ 23 = 2 ^ 23 + fr + E * 2 ^ 23 by ring] at hv
      rw [rationalOf_of_fin hv, mul_assoc, show ((E + 1 : Nat) : Int) - 150 = E - 149 by push_cast; ring]
    · obtain rfl : q = 2 ^ 24 := by omega
      have hv := fpVal_fpBits neg (ex := E + 2) (fr := 0) (by omega) (by decide)
      rw [if_neg (by omega), show 0 + (E + 2) * 2 ^ 23 = 2 ^ 24 + E * 2 ^ 23 by ring] at hv
      rw [rationalOf_of_fin hv, mul_assoc, show ((E + 2 : Nat) : Int) - 150 = E - 149 + 1 by push_cast; ring,
        zpow_add_one₀ (by decide)]
      push_cast
      ring_nf

/-- Every finite value is a significand below `2^24` at an exponent of at least -149. -/
theorem exists_significand_of_rationalOf {z : F32} {r : ℚ} (h : rationalOf z = some r) :
    ∃ (neg : Bool) (q E : Nat), q < 2 ^ 24 ∧ r = packedValue neg q E := by
  obtain ⟨neg, m, e, hz, rfl⟩ := exists_fin_of_rationalOf h
  have hfr : z.toNat % 2 ^ 23 < 2 ^ 23 := Nat.mod_lt _ (by decide)
  simp only [fpVal] at hz
  split at hz
  · split at hz <;> cases hz
  · split at hz
    · cases hz
      refine ⟨z.msb, _, 0, hfr.trans (by decide), ?_⟩
      rw [packedValue, mul_assoc]
      rfl
    · next hex =>
      cases hz
      obtain ⟨E, hE⟩ := Nat.exists_eq_succ_of_ne_zero hex
      refine ⟨z.msb, _, E, Nat.add_lt_add_left hfr (2 ^ 23), ?_⟩
      rw [packedValue, mul_assoc, hE, show ((E.succ : Nat) : Int) - 150 = E - 149 by push_cast; ring]

end Sys2Proof.Machine
end

section
/-! PROOFS. Rounding to nearest even, in half places of the exponent of the last place: what is known of a packed
significand, and that it rounds (44_synthesis.md R220). -/

namespace Sys2Proof.Machine

/-- Half the last place at the exponent `E - 149`. -/
def halfPlace (E : Nat) : ℚ := (2 : ℚ) ^ ((E : Int) - 150)

theorem halfPlace_pos (E : Nat) : 0 < halfPlace E := zpow_pos (by norm_num) _

theorem two_mul_halfPlace (E : Nat) : 2 * halfPlace E = (2 : ℚ) ^ ((E : Int) - 149) := by
  rw [halfPlace, show (E : Int) - 149 = E - 150 + 1 by ring, zpow_add_one₀ (by norm_num), mul_comm]

theorem packedValue_eq (neg : Bool) (q E : Nat) : packedValue neg q E = signQ neg * (2 * q * halfPlace E) := by
  rw [packedValue, ← two_mul_halfPlace]
  ring

theorem halfPlace_mono {E E' : Nat} (h : E ≤ E') : halfPlace E ≤ halfPlace E' :=
  zpow_le_zpow_right₀ (by norm_num) (by omega)

/-- `q` is the integer nearest to `y / 2` and, between two equally near, the even one. -/
structure NearestEven (y : ℚ) (q : Nat) : Prop where
  lower : 2 * (q : ℚ) - 1 ≤ y
  upper : y ≤ 2 * (q : ℚ) + 1
  even : y = 2 * (q : ℚ) - 1 ∨ y = 2 * (q : ℚ) + 1 → q % 2 = 0

/-- `y` half places round to the significand `q`, at the exponent `E - 149` of a 24-bit significand or at -149. -/
structure RoundsAt (y : ℚ) (E q : Nat) : Prop extends NearestEven y q where
  lt : y < 2 ^ 25
  ge : E = 0 ∨ 2 ^ 24 ≤ y

theorem NearestEven.of_eq {y : ℚ} {q : Nat} (h : y = 2 * q) : NearestEven y q :=
  ⟨by linarith, by linarith, fun hor => by rcases hor with hy | hy <;> linarith⟩

/-- `roundShift` rounds to nearest even. -/
theorem NearestEven.roundShift (m d : Nat) : NearestEven (2 * m / 2 ^ d) (roundShift m d) := by
  obtain ⟨D, hD⟩ : ∃ D, D = 2 ^ d := ⟨_, rfl⟩
  have hDpos : 0 < D := hD ▸ Nat.two_pow_pos d
  have hpos : (0 : ℚ) < D := by exact_mod_cast hDpos
  obtain ⟨q, hq⟩ : ∃ q, q = m / D := ⟨_, rfl⟩
  obtain ⟨r, hr⟩ : ∃ r, r = m % D := ⟨_, rfl⟩
  have hrD : (r : ℚ) < D := by exact_mod_cast hr ▸ Nat.mod_lt m hDpos
  have hr0 : (0 : ℚ) ≤ r := Nat.cast_nonneg r
  have hm : (m : ℚ) = D * q + r := by
    have := Nat.div_add_mod m D
    rw [← hq, ← hr] at this
    exact_mod_cast this.symm
  have hy : 2 * (m : ℚ) / 2 ^ d = 2 * q + 2 * r / D := by
    rw [hm, hD]
    push_cast
    field_simp
  have h0 : 0 ≤ 2 * (r : ℚ) / D := by positivity
  have h2 : 2 * (r : ℚ) / D < 2 := by
    rw [div_lt_iff₀ hpos]
    linarith
  have hhalf : 2 * (r : ℚ) / D = 1 ↔ 2 * r = D := by
    rw [div_eq_one_iff_eq hpos.ne']
    exact_mod_cast Iff.rfl
  rw [hy, Machine.roundShift, ← hD, ← hq, ← hr]
  split
  · next hup =>
    have h1 : 1 ≤ 2 * (r : ℚ) / D := by
      rw [le_div_iff₀ hpos, one_mul]
      exact_mod_cast (show D ≤ 2 * r by omega)
    have hsucc : ((q + 1 : Nat) : ℚ) = q + 1 := Nat.cast_succ q
    refine ⟨by linarith, by linarith, fun hor => ?_⟩
    have hodd := hhalf.mp (by rcases hor with h | h <;> linarith)
    omega
  · next hdown =>
    have h1 : 2 * (r : ℚ) / D ≤ 1 := by
      rw [div_le_iff₀ hpos, one_mul]
      exact_mod_cast (show 2 * r ≤ D by omega)
    refine ⟨by linarith, by linarith, fun hor => ?_⟩
    have heven := hhalf.mp (by rcases hor with h | h <;> linarith)
    omega

/-- Half places on the same side of every integer round to the same significand. -/
theorem RoundsAt.congr {y y' : ℚ} {E q : Nat} (h : RoundsAt y E q)
    (hle : ∀ t : Int, (t : ℚ) ≤ y ↔ t ≤ y') (hge : ∀ t : Int, y ≤ t ↔ y' ≤ t) : RoundsAt y' E q := by
  have heq : ∀ t : Int, y = t ↔ y' = t := fun t => by
    rw [le_antisymm_iff, le_antisymm_iff, hle, hge]
  have hlower := hle (2 * q - 1)
  have hupper := hge (2 * q + 1)
  have heqlo := heq (2 * q - 1)
  have heqhi := heq (2 * q + 1)
  have hlt := hle (2 ^ 25)
  have hnorm := hle (2 ^ 24)
  push_cast at hlower hupper heqlo heqhi hlt hnorm
  exact ⟨⟨hlower.mp h.lower, hupper.mp h.upper, fun hor => h.even (hor.imp heqlo.mpr heqhi.mpr)⟩,
    not_le.mp (mt hlt.mpr (not_le.mpr h.lt)), h.ge.imp_right hnorm.mp⟩

namespace RoundsAt

variable {y : ℚ} {E q : Nat} (h : RoundsAt y E q)
include h

theorem le_two_pow : q ≤ 2 ^ 24 := by
  have hq : 2 * (q : ℚ) < 2 ^ 25 + 1 := by linarith [h.lower, h.lt]
  have : 2 * q < 2 ^ 25 + 1 := by exact_mod_cast hq
  omega

theorem two_pow_le : E = 0 ∨ 2 ^ 23 ≤ q := by
  refine h.ge.imp_right fun hy => ?_
  have hq : (2 : ℚ) ^ 24 ≤ 2 * q + 1 := hy.trans h.upper
  have : 2 ^ 24 ≤ 2 * q + 1 := by exact_mod_cast hq
  omega

/-- No integer is nearer, and where another is as near the significand is even. -/
theorem nearest (c : Int) : |2 * (q : ℚ) - y| ≤ |2 * (c : ℚ) - y| ∧
    (|2 * (q : ℚ) - y| = |2 * (c : ℚ) - y| → c ≠ q → q % 2 = 0) := by
  have hq : |2 * (q : ℚ) - y| ≤ 1 := abs_le.mpr ⟨by linarith [h.upper], by linarith [h.lower]⟩
  rcases eq_or_ne c q with rfl | hne
  · exact ⟨le_rfl, fun _ hne => absurd rfl hne⟩
  · have hc : 1 ≤ |2 * (c : ℚ) - y| := by
      rcases lt_or_gt_of_ne hne with hlt | hgt
      · have : (c : ℚ) + 1 ≤ q := by exact_mod_cast hlt
        rw [abs_of_nonpos (by linarith [h.lower])]
        linarith [h.lower]
      · have : (q : ℚ) + 1 ≤ c := by exact_mod_cast hgt
        rw [abs_of_nonneg (by linarith [h.upper])]
        linarith [h.upper]
    refine ⟨hq.trans hc, fun heq _ => h.even ?_⟩
    rcases abs_eq_abs.mp ((le_antisymm hq (heq ▸ hc)).trans abs_one.symm) with h1 | h1
    · exact .inl (by linarith)
    · exact .inr (by linarith)

/-- An exponent field of all ones results exactly from at least `2^128 - 2^103`, half a place above the largest
finite value. -/
theorem overflow_iff : 255 * 2 ^ 23 ≤ q + E * 2 ^ 23 ↔ (2 : ℚ) ^ 128 - 2 ^ 103 ≤ y * halfPlace E := by
  have hq := h.le_two_pow
  have hqlo := h.two_pow_le
  have hpos := halfPlace_pos E
  rcases lt_trichotomy E 253 with hE | rfl | hE
  · have hhalf : halfPlace E ≤ 2 ^ 102 := by exact_mod_cast halfPlace_mono (show E ≤ 252 by omega)
    refine iff_of_false (by omega) (not_le.mpr ?_)
    calc y * halfPlace E ≤ 2 ^ 25 * 2 ^ 102 := mul_le_mul h.lt.le hhalf hpos.le (by norm_num)
      _ < 2 ^ 128 - 2 ^ 103 := by norm_num
  · have hhalf : halfPlace 253 = 2 ^ 103 := by norm_num [halfPlace]
    have hy : (2 : ℚ) ^ 128 - 2 ^ 103 ≤ y * halfPlace 253 ↔ 2 ^ 25 - 1 ≤ y := by
      rw [hhalf, show (2 : ℚ) ^ 128 - 2 ^ 103 = (2 ^ 25 - 1) * 2 ^ 103 by norm_num,
        mul_le_mul_iff_left₀ (by positivity)]
    rw [hy]
    constructor
    · intro hlow
      have : (2 : ℚ) ^ 24 ≤ q := by exact_mod_cast (show 2 ^ 24 ≤ q by omega)
      linarith [h.lower]
    · intro hy
      by_contra hlow
      have hle : (q : ℚ) ≤ 2 ^ 24 - 1 := by
        rw [le_sub_iff_add_le]
        exact_mod_cast (show q + 1 ≤ 2 ^ 24 by omega)
      have heven := h.even (.inr (le_antisymm h.upper (by linarith)))
      have hge : (2 : ℚ) ^ 25 - 1 ≤ 2 * q + 1 := hy.trans h.upper
      have : 2 ^ 25 ≤ 2 * q + 2 := by
        rw [sub_le_iff_le_add, add_assoc] at hge
        norm_num at hge ⊢
        exact_mod_cast hge
      omega
  · have hhalf : 2 ^ 104 ≤ halfPlace E := by exact_mod_cast halfPlace_mono (show 254 ≤ E by omega)
    have hy : 2 ^ 24 ≤ y := h.ge.resolve_left (by omega)
    refine iff_of_true (by omega) ?_
    calc (2 : ℚ) ^ 128 - 2 ^ 103 ≤ 2 ^ 24 * 2 ^ 104 := by norm_num
      _ ≤ y * halfPlace E := mul_le_mul hy hhalf (by norm_num) (by linarith)

/-- A significand at another exponent is, in half places, an even integer, or below every significand of this
exponent. -/
theorem finite_cases (neg : Bool) {Q : Nat} (hQ : Q < 2 ^ 24) (E' : Nat) :
    (∃ c : Int, packedValue neg Q E' = 2 * c * halfPlace E) ∨
    (2 ^ 24 ≤ y ∧ packedValue neg Q E' < 2 ^ 24 * halfPlace E) := by
  rcases Nat.lt_or_ge E' E with hlt | hge
  · refine .inr ⟨h.ge.resolve_left (by omega), ?_⟩
    have hQ' : (Q : ℚ) < 2 ^ 24 := by exact_mod_cast hQ
    have hpow : (2 : ℚ) ^ ((E' : Int) - 149) ≤ halfPlace E := zpow_le_zpow_right₀ (by norm_num) (by omega)
    have hpow0 : 0 < (2 : ℚ) ^ ((E' : Int) - 149) := by positivity
    calc packedValue neg Q E' ≤ |packedValue neg Q E'| := le_abs_self _
      _ = Q * (2 : ℚ) ^ ((E' : Int) - 149) := by
        rw [packedValue, abs_mul, abs_signQ, one_mul, abs_of_nonneg (by positivity)]
      _ < 2 ^ 24 * halfPlace E := mul_lt_mul hQ' hpow hpow0 (by norm_num)
  · obtain ⟨k, rfl⟩ := Nat.exists_eq_add_of_le hge
    refine .inl ⟨(if neg then -1 else 1) * (Q * 2 ^ k), ?_⟩
    rw [packedValue, show ((E + k : Nat) : Int) - 149 = E - 149 + k by push_cast; ring, zpow_add₀ (by norm_num),
      ← two_mul_halfPlace, zpow_natCast, signQ]
    push_cast
    ring

/-- No finite value is nearer than the significand, and where another is as near the significand is even. -/
theorem nearest_finite (neg : Bool) {Q : Nat} (hQ : Q < 2 ^ 24) (E' : Nat) :
    |packedValue false q E - y * halfPlace E| ≤ |packedValue neg Q E' - y * halfPlace E| ∧
    (|packedValue false q E - y * halfPlace E| = |packedValue neg Q E' - y * halfPlace E| →
      packedValue false q E ≠ packedValue neg Q E' → q % 2 = 0) := by
  have hpos := halfPlace_pos E
  have hscale : ∀ a : ℚ, |a * halfPlace E - y * halfPlace E| = |a - y| * halfPlace E := fun a => by
    rw [← sub_mul, abs_mul, abs_of_pos hpos]
  have hq : packedValue false q E = 2 * q * halfPlace E := by
    simp [packedValue_eq, signQ]
  rw [hq]
  rcases h.finite_cases neg hQ E' with ⟨c, hc⟩ | ⟨hy, hr⟩
  · obtain ⟨hle, htie⟩ := h.nearest c
    rw [hc, hscale, hscale]
    refine ⟨mul_le_mul_of_nonneg_right hle hpos.le, fun heq hne => htie (mul_right_cancel₀ hpos.ne' heq) ?_⟩
    rintro rfl
    exact hne rfl
  · have hnear := (h.nearest (2 ^ 23)).1
    have hnonpos : 2 * ((2 ^ 23 : Int) : ℚ) - y ≤ 0 := by
      push_cast
      linarith
    rw [abs_of_nonpos hnonpos] at hnear
    push_cast at hnear
    have hlt : |2 * (q : ℚ) * halfPlace E - y * halfPlace E| < |packedValue neg Q E' - y * halfPlace E| :=
      calc |2 * (q : ℚ) * halfPlace E - y * halfPlace E| ≤ (y - 2 ^ 24) * halfPlace E := by
            rw [hscale]
            exact mul_le_mul_of_nonneg_right (by linarith) hpos.le
        _ < -(packedValue neg Q E' - y * halfPlace E) := by linarith
        _ ≤ |packedValue neg Q E' - y * halfPlace E| := neg_le_abs _
    exact ⟨hlt.le, fun heq => absurd heq hlt.ne⟩

end RoundsAt

/-! ### Packing -/

/-- A pattern from its sign and packed significand and exponent, an infinity from an exponent field of all ones on. -/
def fpPack (neg : Bool) (low : Nat) : F32 := if low ≥ 255 * 2 ^ 23 then fpInf neg else fpBits neg low

theorem fpPack_msb (neg : Bool) (low : Nat) : (fpPack neg low).msb = neg := by
  rw [fpPack]
  split
  · exact fpInf_msb neg
  · exact fpBits_msb neg (by omega)

/-- What rounds to a significand is rounded by packing it. -/
theorem RoundsAt.rounds {x : ℚ} {E q : Nat} (hx : 0 < x) (h : RoundsAt (x / halfPlace E) E q) (neg : Bool) :
    Rounds (signQ neg * x) (fpPack neg (q + E * 2 ^ 23)) := by
  have hover := h.overflow_iff
  have hnear := @RoundsAt.nearest_finite _ _ _ h
  rw [div_mul_cancel₀ _ (halfPlace_pos E).ne'] at hover
  simp only [div_mul_cancel₀ _ (halfPlace_pos E).ne'] at hnear
  have hneg : signQ neg * x < 0 ↔ neg = true := by
    cases neg <;> simp [signQ, hx, hx.le]
  have habs : |signQ neg * x| = x := by rw [abs_mul, abs_signQ, one_mul, abs_of_pos hx]
  have hflip : ∀ r, |r - signQ neg * x| = |signQ neg * r - x| := fun r => by
    rw [← one_mul |r - signQ neg * x|, ← abs_signQ neg, ← abs_mul, mul_sub, ← mul_assoc, signQ_mul_self, one_mul]
  refine ⟨fun hlt => ?_, fun hgt => ?_, fun hbig => ?_, fun hsmall => ?_⟩
  · rw [fpPack_msb, hneg.mp hlt]
  · rw [fpPack_msb]
    exact Bool.eq_false_iff.mpr (mt hneg.mpr hgt.not_gt)
  · rw [habs] at hbig
    rw [fpPack, if_pos (hover.mpr hbig), fpVal_fpInf]
    simp [hneg]
  · rw [habs] at hsmall
    have hlow : q + E * 2 ^ 23 < 255 * 2 ^ 23 := not_le.mp (mt hover.mp (not_le.mpr hsmall))
    have hval := rationalOf_fpBits neg h.le_two_pow h.two_pow_le hlow
    rw [fpPack, if_neg (not_le.mpr hlow)]
    refine ⟨_, hval, fun z r hz => ?_⟩
    obtain ⟨n, Q, E', hQ, rfl⟩ := exists_significand_of_rationalOf hz
    obtain ⟨hle, htie⟩ := hnear (neg != n) hQ E'
    rw [hflip, hflip, signQ_mul_packedValue, signQ_mul_packedValue, bne_self_eq_false]
    refine ⟨hle, fun heq hne => fpBits_getLsbD_zero neg (by omega) ?_⟩
    have := htie heq fun hsame => hne ?_
    · omega
    · have hback : packedValue (neg != false) q E = packedValue (neg != (neg != n)) Q E' := by
        rw [← signQ_mul_packedValue, ← signQ_mul_packedValue, hsame]
      rwa [Bool.bne_false, ← Bool.bne_assoc, bne_self_eq_false, Bool.false_bne] at hback

end Sys2Proof.Machine
end

section
/-! PROOFS. The float operations: fpRound, the conversion of an integer and the four operations round the exact result
(44_synthesis.md R220). -/

namespace Sys2Proof.Machine

/-! ### fpRound -/

/-- The exponent of the last place that fpRound takes. -/
def lastPlace (m : Nat) (e : Int) : Int := max (e + (Nat.log2 m + 1 : Nat) - 24) (-149)

/-- The significand that fpRound takes. -/
def significand (m : Nat) (e : Int) : Nat :=
  if lastPlace m e ≤ e then m * 2 ^ (e - lastPlace m e).toNat else roundShift m (lastPlace m e - e).toNat

theorem fpRound_eq (neg : Bool) {m : Nat} (hm : m ≠ 0) (e : Int) :
    fpRound neg m e = fpPack neg (significand m e + (lastPlace m e + 149).toNat * 2 ^ 23) := if_neg hm

@[simp] theorem fpRound_zero (neg : Bool) (e : Int) : fpRound neg 0 e = fpBits neg 0 := rfl

theorem nearestEven_significand (m : Nat) (e : Int) :
    NearestEven (m * (2 : ℚ) ^ (e - lastPlace m e + 1)) (significand m e) := by
  rw [significand]
  split
  · next h =>
    obtain ⟨k, hk⟩ := Int.eq_ofNat_of_zero_le (Int.sub_nonneg.mpr h)
    rw [hk, zpow_add_one₀ (by norm_num), Int.toNat_natCast, zpow_natCast]
    refine .of_eq ?_
    push_cast
    ring
  · next h =>
    obtain ⟨k, hk⟩ := Int.eq_ofNat_of_zero_le (a := lastPlace m e - e) (by omega)
    rw [hk, Int.toNat_natCast, show e - lastPlace m e + 1 = 1 - k by omega, zpow_sub₀ (by norm_num), zpow_one,
      zpow_natCast, ← mul_div_assoc, mul_comm]
    exact .roundShift m k

theorem lt_two_zpow_log2 (m : Nat) : (m : ℚ) < (2 : ℚ) ^ ((Nat.log2 m + 1 : Nat) : Int) := by
  rw [zpow_natCast]
  exact_mod_cast Nat.lt_log2_self

theorem two_zpow_log2_le {m : Nat} (hm : m ≠ 0) : (2 : ℚ) ^ ((Nat.log2 m : Nat) : Int) ≤ m := by
  rw [zpow_natCast]
  exact_mod_cast Nat.log2_self_le hm

/-- The significand of fpRound has at most 24 bits, and 24 above the exponent of the subnormals. -/
theorem roundsAt_significand {m : Nat} (hm : m ≠ 0) (e : Int) :
    RoundsAt (m * (2 : ℚ) ^ e / halfPlace (lastPlace m e + 149).toNat) (lastPlace m e + 149).toNat
      (significand m e) := by
  have hlast : ((lastPlace m e + 149).toNat : Int) = lastPlace m e + 149 := by
    rw [lastPlace]
    omega
  have hy : m * (2 : ℚ) ^ e / halfPlace (lastPlace m e + 149).toNat = m * (2 : ℚ) ^ (e - lastPlace m e + 1) := by
    rw [halfPlace, hlast, mul_div_assoc, ← zpow_sub₀ (by norm_num)]
    ring_nf
  have hpos : (0 : ℚ) < (2 : ℚ) ^ (e - lastPlace m e + 1) := by positivity
  rw [hy]
  refine ⟨nearestEven_significand m e, ?_, ?_⟩
  · calc m * (2 : ℚ) ^ (e - lastPlace m e + 1)
        < (2 : ℚ) ^ ((Nat.log2 m + 1 : Nat) : Int) * (2 : ℚ) ^ (e - lastPlace m e + 1) :=
          mul_lt_mul_of_pos_right (lt_two_zpow_log2 m) hpos
      _ = (2 : ℚ) ^ ((Nat.log2 m + 1 : Nat) + (e - lastPlace m e + 1) : Int) := (zpow_add₀ (by norm_num) _ _).symm
      _ ≤ (2 : ℚ) ^ (25 : Int) := zpow_le_zpow_right₀ (by norm_num) (by rw [lastPlace]; omega)
  · refine or_iff_not_imp_left.mpr fun hE => ?_
    calc (2 : ℚ) ^ (24 : Int) ≤ (2 : ℚ) ^ ((Nat.log2 m : Nat) + (e - lastPlace m e + 1) : Int) :=
          zpow_le_zpow_right₀ (by norm_num) (by rw [lastPlace] at hE ⊢; omega)
      _ = (2 : ℚ) ^ ((Nat.log2 m : Nat) : Int) * (2 : ℚ) ^ (e - lastPlace m e + 1) := zpow_add₀ (by norm_num) _ _
      _ ≤ m * (2 : ℚ) ^ (e - lastPlace m e + 1) := mul_le_mul_of_nonneg_right (two_zpow_log2_le hm) hpos.le

theorem rationalOf_zero (neg : Bool) : rationalOf (fpBits neg 0) = some 0 := by
  simpa [packedValue] using rationalOf_fpBits neg (q := 0) (E := 0) (by decide) (.inl rfl) (by decide)

/-- A zero of either sign rounds 0. -/
theorem rounds_zero (neg : Bool) : Rounds 0 (fpBits neg 0) := by
  refine ⟨fun h => absurd h (lt_irrefl 0), fun h => absurd h (lt_irrefl 0), fun h => ?_,
    fun _ => ⟨0, rationalOf_zero neg, ?_⟩⟩
  · norm_num at h
  · intro z r _
    rw [sub_zero, sub_zero, abs_zero]
    exact ⟨abs_nonneg r, fun h hne => absurd (abs_eq_zero.mp h.symm).symm hne⟩

/-- fpRound rounds. -/
theorem rounds_fpRound (neg : Bool) (m : Nat) (e : Int) :
    Rounds (signQ neg * m * (2 : ℚ) ^ e) (fpRound neg m e) := by
  rcases eq_or_ne m 0 with rfl | hm
  · simpa using rounds_zero neg
  · have hpos : 0 < m * (2 : ℚ) ^ e := mul_pos (by exact_mod_cast Nat.pos_of_ne_zero hm) (by positivity)
    rw [fpRound_eq neg hm, mul_assoc]
    exact (roundsAt_significand hm e).rounds hpos neg

/-! ### Conversion and sums -/

/-- A value in the unit `2^e0`. -/
def scaled (neg : Bool) (m : Nat) (e e0 : Int) : Int :=
  if neg then -((m : Int) * 2 ^ (e - e0).toNat) else (m : Int) * 2 ^ (e - e0).toNat

theorem scaled_mul (neg : Bool) (m : Nat) {e e0 : Int} (h : e0 ≤ e) :
    (scaled neg m e e0 : ℚ) * (2 : ℚ) ^ e0 = signQ neg * m * (2 : ℚ) ^ e := by
  obtain ⟨k, hk⟩ := Int.eq_ofNat_of_zero_le (Int.sub_nonneg.mpr h)
  rw [scaled, hk, Int.toNat_natCast, show e = k + e0 by omega, zpow_add₀ (by norm_num), zpow_natCast, signQ]
  cases neg
  · simp only [Bool.false_eq_true, if_false]
    push_cast
    ring
  · simp only [if_true]
    push_cast
    ring

/-- An integer by its sign and its magnitude. -/
theorem signQ_mul_natAbs (v : Int) : signQ (decide (v < 0)) * (v.natAbs : ℚ) = v := by
  rw [Nat.cast_natAbs, signQ]
  by_cases hv : v < 0
  · simp [hv, abs_of_neg hv]
  · simp [hv, abs_of_nonneg (not_lt.mp hv)]

theorem rounds_fpRound_int (v e : Int) : Rounds (v * (2 : ℚ) ^ e) (fpRound (decide (v < 0)) v.natAbs e) := by
  have h := rounds_fpRound (decide (v < 0)) v.natAbs e
  rwa [signQ_mul_natAbs] at h

theorem rounds_fpOfInt (v : Int) : Rounds v (fpOfInt v) := by
  have h := rounds_fpRound_int v 0
  rwa [zpow_zero, mul_one] at h

theorem rounds_fpAddFin (n1 : Bool) (m1 : Nat) (e1 : Int) (n2 : Bool) (m2 : Nat) (e2 : Int) :
    Rounds (signQ n1 * m1 * (2 : ℚ) ^ e1 + signQ n2 * m2 * (2 : ℚ) ^ e2) (fpAddFin n1 m1 e1 n2 m2 e2) := by
  have hsum : fpAddFin n1 m1 e1 n2 m2 e2 =
      (let v := scaled n1 m1 e1 (min e1 e2) + scaled n2 m2 e2 (min e1 e2)
       if v = 0 then fpBits (n1 && n2) 0 else fpRound (decide (v < 0)) v.natAbs (min e1 e2)) := rfl
  rw [← scaled_mul n1 m1 (min_le_left e1 e2), ← scaled_mul n2 m2 (min_le_right e1 e2), ← add_mul, ← Int.cast_add,
    hsum]
  dsimp only
  split
  · next hzero =>
    rw [hzero, Int.cast_zero, zero_mul]
    exact rounds_zero _
  · exact rounds_fpRound_int _ _

section
variable {a b : F32} {p q : ℚ} (hp : rationalOf a = some p) (hq : rationalOf b = some q)
include hp hq

theorem rounds_fpAdd (u : Nat) : Rounds (p + q) (fpAdd u a b) := by
  obtain ⟨n1, m1, e1, ha, rfl⟩ := exists_fin_of_rationalOf hp
  obtain ⟨n2, m2, e2, hb, rfl⟩ := exists_fin_of_rationalOf hq
  rw [fpAdd, ha, hb]
  exact rounds_fpAddFin n1 m1 e1 n2 m2 e2

theorem rounds_fpSub (u : Nat) : Rounds (p - q) (fpSub u a b) := by
  obtain ⟨n1, m1, e1, ha, rfl⟩ := exists_fin_of_rationalOf hp
  obtain ⟨n2, m2, e2, hb, rfl⟩ := exists_fin_of_rationalOf hq
  have h := rounds_fpAddFin n1 m1 e1 (!n2) m2 e2
  rw [signQ_not, neg_mul, neg_mul, ← sub_eq_add_neg] at h
  rw [fpSub, ha, hb]
  exact h

theorem rounds_fpMul (u : Nat) : Rounds (p * q) (fpMul u a b) := by
  obtain ⟨n1, m1, e1, ha, rfl⟩ := exists_fin_of_rationalOf hp
  obtain ⟨n2, m2, e2, hb, rfl⟩ := exists_fin_of_rationalOf hq
  have hx : signQ n1 * m1 * (2 : ℚ) ^ e1 * (signQ n2 * m2 * (2 : ℚ) ^ e2) =
      signQ (n1 != n2) * (m1 * m2 : Nat) * (2 : ℚ) ^ (e1 + e2) := by
    rw [signQ_bne, zpow_add₀ (by norm_num), Nat.cast_mul]
    ring
  rw [hx]
  simp only [fpMul, ha, hb]
  exact rounds_fpRound _ _ _

/-- The comparison of finite values is that of the rationals. -/
theorem fpLt_of_rationalOf : fpLt a b = decide (p < q) := by
  obtain ⟨n1, m1, e1, ha, rfl⟩ := exists_fin_of_rationalOf hp
  obtain ⟨n2, m2, e2, hb, rfl⟩ := exists_fin_of_rationalOf hq
  have hlt : fpLt a b = decide (scaled n1 m1 e1 (min e1 e2) < scaled n2 m2 e2 (min e1 e2)) := by
    simp only [fpLt, ha, hb]
    rfl
  rw [hlt, decide_eq_decide, ← scaled_mul n1 m1 (min_le_left e1 e2), ← scaled_mul n2 m2 (min_le_right e1 e2),
    mul_lt_mul_iff_left₀ (by positivity), Int.cast_lt]

end

/-! ### Quotients -/

/-- Twice a quotient, its last bit set for a remainder. -/
def stickyQuotient (num m2 : Nat) : Nat := 2 * (num / m2) + if num % m2 = 0 then 0 else 1

theorem stickyQuotient_compare (num : Nat) {m2 : Nat} (hm2 : 0 < m2) (t : Int) :
    (t * m2 ≤ num ↔ 2 * t ≤ stickyQuotient num m2) ∧ ((num : Int) ≤ t * m2 ↔ stickyQuotient num m2 ≤ 2 * t) := by
  have hpos : (0 : Int) < m2 := by exact_mod_cast hm2
  have hdiv : (num : Int) = m2 * (num / m2 : Nat) + (num % m2 : Nat) := by exact_mod_cast (Nat.div_add_mod num m2).symm
  have hmod : ((num % m2 : Nat) : Int) < m2 := by exact_mod_cast Nat.mod_lt num hm2
  rw [stickyQuotient]
  generalize num / m2 = f at *
  generalize num % m2 = r at *
  rw [hdiv]
  rcases Int.lt_trichotomy t f with hlt | rfl | hgt
  · have : t * m2 + m2 ≤ m2 * f := by nlinarith
    split <;> push_cast <;> omega
  · rw [mul_comm]
    split <;> push_cast <;> omega
  · have : m2 * f + m2 ≤ t * m2 := by nlinarith
    split <;> push_cast <;> omega

/-- The quotient and the sticky quotient lie on the same side of every even multiple of their unit. -/
theorem quotient_compare (num : Nat) {m2 : Nat} (hm2 : 0 < m2) (d : Nat) (t : Int) :
    ((t : ℚ) ≤ (stickyQuotient num m2 : ℚ) / 2 ^ (d + 1) ↔ t ≤ (num : ℚ) / m2 / 2 ^ d) ∧
    ((stickyQuotient num m2 : ℚ) / 2 ^ (d + 1) ≤ t ↔ (num : ℚ) / m2 / 2 ^ d ≤ t) := by
  have hpos : (0 : ℚ) < m2 := by exact_mod_cast hm2
  obtain ⟨hle, hge⟩ := stickyQuotient_compare num hm2 (t * 2 ^ d)
  constructor
  · rw [le_div_iff₀ (by positivity), le_div_iff₀ (by positivity), le_div_iff₀ hpos, pow_succ, ← mul_assoc,
      mul_comm _ (2 : ℚ)]
    exact_mod_cast hle.symm
  · rw [div_le_iff₀ (by positivity), div_le_iff₀ (by positivity), div_le_iff₀ hpos, pow_succ, ← mul_assoc,
      mul_comm _ (2 : ℚ)]
    exact_mod_cast hge.symm

/-- The quotient of significands of at most 24 bits has 26 bits and more, a sticky bit among them. -/
theorem log2_stickyQuotient {m1 m2 : Nat} (hm1 : m1 ≠ 0) (hm2 : 0 < m2) (hlt : m2 < 2 ^ 24) :
    25 ≤ Nat.log2 (stickyQuotient (m1 * 2 ^ 50) m2) := by
  have hdiv : 2 ^ 25 ≤ m1 * 2 ^ 50 / m2 := by
    rw [Nat.le_div_iff_mul_le hm2]
    calc 2 ^ 25 * m2 ≤ 1 * 2 ^ 50 := by omega
      _ ≤ m1 * 2 ^ 50 := Nat.mul_le_mul_right _ (Nat.one_le_iff_ne_zero.mpr hm1)
  have hge : 2 ^ 25 ≤ stickyQuotient (m1 * 2 ^ 50) m2 := by
    rw [stickyQuotient]
    omega
  rw [Nat.le_log2 (by omega)]
  exact hge

/-- The last place of 26 bits and more is at least two bits above their unit. -/
theorem exists_halfPlace_eq {m : Nat} (h : 25 ≤ Nat.log2 m) (e : Int) :
    ∃ d : Nat, halfPlace (lastPlace m e + 149).toNat = (2 : ℚ) ^ e * 2 ^ (d + 1) := by
  refine ⟨(lastPlace m e - 2 - e).toNat, ?_⟩
  rw [halfPlace, ← zpow_natCast (2 : ℚ), ← zpow_add₀ (by norm_num)]
  congr 1
  rw [lastPlace]
  omega

theorem rounds_fpDivFin (neg : Bool) (m1 : Nat) (e1 : Int) {m2 : Nat} (hm2 : 0 < m2) (hlt : m2 < 2 ^ 24) (e2 : Int) :
    Rounds (signQ neg * (m1 / m2 * (2 : ℚ) ^ (e1 - e2))) (fpDivFin neg m1 e1 m2 e2) := by
  have hdiv : fpDivFin neg m1 e1 m2 e2 = fpRound neg (stickyQuotient (m1 * 2 ^ 50) m2) (e1 - e2 - 51) := rfl
  rcases eq_or_ne m1 0 with rfl | hm1
  · rw [hdiv]
    simpa [stickyQuotient] using rounds_zero neg
  · have hlog := log2_stickyQuotient hm1 hm2 hlt
    have hM : stickyQuotient (m1 * 2 ^ 50) m2 ≠ 0 := fun h => absurd (h ▸ hlog) (by decide)
    have hpos : (0 : ℚ) < m1 / m2 * (2 : ℚ) ^ (e1 - e2) :=
      mul_pos (div_pos (by exact_mod_cast Nat.pos_of_ne_zero hm1) (by exact_mod_cast hm2)) (by positivity)
    have hat := roundsAt_significand hM (e1 - e2 - 51)
    obtain ⟨d, hd⟩ := exists_halfPlace_eq hlog (e1 - e2 - 51)
    have hunit : (2 : ℚ) ^ (e1 - e2 - 51) ≠ 0 := by positivity
    have hy : m1 / m2 * (2 : ℚ) ^ (e1 - e2) / ((2 : ℚ) ^ (e1 - e2 - 51) * 2 ^ (d + 1)) =
        (m1 * 2 ^ 50 : Nat) / m2 / 2 ^ d := by
      rw [show (2 : ℚ) ^ (e1 - e2) = (2 : ℚ) ^ (e1 - e2 - 51) * 2 ^ 51 by
        rw [← zpow_natCast (2 : ℚ) 51, ← zpow_add₀ (by norm_num)]
        congr 1
        omega]
      push_cast
      field_simp
      ring
    rw [hdiv, fpRound_eq neg hM]
    refine RoundsAt.rounds hpos (hat.congr ?_ ?_) neg <;> rw [hd, hy, mul_comm _ ((2 : ℚ) ^ (e1 - e2 - 51)),
      mul_div_mul_left _ _ hunit]
    · exact fun t => (quotient_compare _ hm2 d t).1
    · exact fun t => (quotient_compare _ hm2 d t).2

/-- A finite value has a significand below `2^24`. -/
theorem significand_lt_of_fin {x : F32} {neg : Bool} {m : Nat} {e : Int} (h : fpVal x = .fin neg m e) :
    m < 2 ^ 24 := by
  have hfr : x.toNat % 2 ^ 23 < 2 ^ 23 := Nat.mod_lt _ (by decide)
  simp only [fpVal] at h
  split at h
  · split at h <;> cases h
  · split at h <;> cases h
    · exact hfr.trans (by decide)
    · exact Nat.add_lt_add_left hfr (2 ^ 23)

theorem rounds_fpDiv {a b : F32} {p q : ℚ} (hp : rationalOf a = some p) (hq : rationalOf b = some q) (hne : q ≠ 0)
    (u : Nat) : Rounds (p / q) (fpDiv u a b) := by
  obtain ⟨n1, m1, e1, ha, rfl⟩ := exists_fin_of_rationalOf hp
  obtain ⟨n2, m2, e2, hb, rfl⟩ := exists_fin_of_rationalOf hq
  have hm2 : m2 ≠ 0 := by
    rintro rfl
    simp at hne
  have hx : signQ n1 * m1 * (2 : ℚ) ^ e1 / (signQ n2 * m2 * (2 : ℚ) ^ e2) =
      signQ (n1 != n2) * (m1 / m2 * (2 : ℚ) ^ (e1 - e2)) := by
    rw [signQ_bne, zpow_sub₀ (by norm_num), mul_div_mul_comm, mul_div_mul_comm]
    rw [div_eq_mul_inv (signQ n1), signQ_inv, mul_assoc]
  rw [hx]
  simp only [fpDiv, ha, hb, if_neg hm2]
  exact rounds_fpDivFin _ m1 e1 (Nat.pos_of_ne_zero hm2) (significand_lt_of_fin hb) e2

/-! ### Exact results -/

/-- A result that a pattern holds is exact. -/
theorem rationalOf_of_rounds {x : ℚ} {y z : F32} (h : Rounds x y) (hx : |x| < (2 : ℚ) ^ 128 - 2 ^ 103)
    (hz : rationalOf z = some x) : rationalOf y = some x := by
  obtain ⟨-, -, -, hfin⟩ := h
  obtain ⟨q, hq, hnear⟩ := hfin hx
  have hle := (hnear z x hz).1
  rw [sub_self, abs_zero, abs_nonpos_iff, sub_eq_zero] at hle
  rw [hq, hle]

/-- fpRound is exact on a significand of at most 24 bits, at an exponent in range. -/
theorem rationalOf_fpRound (neg : Bool) {m : Nat} {e : Int} (hm : m < 2 ^ 24) (he : -149 ≤ e) (he' : e ≤ 103) :
    rationalOf (fpRound neg m e) = some (signQ neg * m * (2 : ℚ) ^ e) := by
  rcases eq_or_ne m 0 with rfl | hm0
  · simpa using rationalOf_zero neg
  · have hlog : Nat.log2 m < 24 := (Nat.log2_lt hm0).mpr hm
    have hlast : lastPlace m e ≤ e := by
      rw [lastPlace]
      omega
    obtain ⟨k, hk⟩ := Int.eq_ofNat_of_zero_le (Int.sub_nonneg.mpr hlast)
    have hE : ((lastPlace m e + 149).toNat : Int) - 149 = lastPlace m e := by
      rw [lastPlace]
      omega
    have hpow : (2 : ℚ) ^ e = 2 ^ k * (2 : ℚ) ^ lastPlace m e := by
      rw [← zpow_natCast, ← zpow_add₀ (by norm_num)]
      congr 1
      omega
    have hval : significand m e * (2 : ℚ) ^ lastPlace m e = m * (2 : ℚ) ^ e := by
      rw [significand, if_pos hlast, hk, Int.toNat_natCast, hpow, Nat.cast_mul, Nat.cast_pow, Nat.cast_ofNat,
        mul_assoc]
    have hat := roundsAt_significand hm0 e
    have hover := hat.overflow_iff
    rw [div_mul_cancel₀ _ (halfPlace_pos _).ne'] at hover
    have hsmall : m * (2 : ℚ) ^ e < 2 ^ 128 - 2 ^ 103 := by
      calc m * (2 : ℚ) ^ e ≤ 2 ^ 24 * (2 : ℚ) ^ (103 : Int) :=
            mul_le_mul (by exact_mod_cast hm.le) (zpow_le_zpow_right₀ (by norm_num) he') (by positivity) (by norm_num)
        _ < 2 ^ 128 - 2 ^ 103 := by norm_num
    have hlow := not_le.mp (mt hover.mp (not_le.mpr hsmall))
    rw [fpRound_eq neg hm0, fpPack, if_neg (not_le.mpr hlow),
      rationalOf_fpBits neg hat.le_two_pow hat.two_pow_le hlow, packedValue, hE, hval, mul_assoc]

/-- An integer of at most 24 bits is converted exactly. -/
theorem rationalOf_fpOfInt {v : Int} (h : v.natAbs < 2 ^ 24) : rationalOf (fpOfInt v) = some (v : ℚ) := by
  rw [fpOfInt, rationalOf_fpRound _ h (by decide) (by decide), signQ_mul_natAbs, zpow_zero, mul_one]

/-! ### The clamp -/

theorem rationalOf_fpOne : rationalOf fpOne = some 1 := by
  have h : fpVal fpOne = .fin false 8388608 (-23) := by decide +kernel
  rw [rationalOf_of_fin h]
  norm_num [signQ]

theorem rationalOf_fpMinusOne : rationalOf fpMinusOne = some (-1) := by
  have h : fpVal fpMinusOne = .fin true 8388608 (-23) := by decide +kernel
  rw [rationalOf_of_fin h]
  norm_num [signQ]

/-- A clamped value is a NaN or lies in -1..1. -/
theorem fpClamp1_isNan_or (v : F32) :
    fpIsNan (fpClamp1 v) = true ∨ ∃ q : ℚ, rationalOf (fpClamp1 v) = some q ∧ -1 ≤ q ∧ q ≤ 1 := by
  obtain ⟨n1, m1, e1, hone, -⟩ := exists_fin_of_rationalOf rationalOf_fpOne
  obtain ⟨n2, m2, e2, hminus, -⟩ := exists_fin_of_rationalOf rationalOf_fpMinusOne
  rw [fpClamp1]
  split
  · exact .inr ⟨-1, rationalOf_fpMinusOne, by norm_num⟩
  · next hlo =>
    split
    · exact .inr ⟨1, rationalOf_fpOne, by norm_num⟩
    · next hhi =>
      cases hv : fpVal v with
      | nan => exact .inl (by simp [fpIsNan, hv])
      | inf neg => cases neg <;> simp [fpLt, hv, hone, hminus] at hlo hhi
      | fin neg m e =>
        have hq := rationalOf_of_fin hv
        rw [fpLt_of_rationalOf hq rationalOf_fpMinusOne, decide_eq_true_eq, not_lt] at hlo
        rw [fpLt_of_rationalOf rationalOf_fpOne hq, decide_eq_true_eq, not_lt] at hhi
        exact .inr ⟨_, hq, hlo, hhi⟩

end Sys2Proof.Machine
end

section
/-! PROOFS. Buffers filled sample by sample: what a sample and its neighbours read as, once all are written
(10_state.md R42). -/

namespace Sys2Proof.Machine

/-- A buffer filled at the indices of a list in order, each element computed from the buffer as it is so far. -/
def fill {n : Nat} (write : Vector F32 n → Int → F32 → Vector F32 n) (f : Vector F32 n → Int → F32)
    (is : List Int) (v : Vector F32 n) : Vector F32 n := is.foldl (fun v i => write v i (f v i)) v

/-- On the indices `a .. b - 1` a write replaces the element `off` behind its index, and no other. -/
def WritesAt {n : Nat} (off : Nat) (a b : Int) (write : Vector F32 n → Int → F32 → Vector F32 n) : Prop :=
  -(off : Int) ≤ a ∧ b + off ≤ n ∧
    ∀ v i x k, a ≤ i → i < b → rd (write v i x) k 0 = if k = (i + off).toNat then x else rd v k 0

theorem writesAt_put {n : Nat} {a b : Int} (ha : 0 ≤ a) (hb : b ≤ n) :
    WritesAt (n := n) 0 a b (fun v i => put v i.toNat) := by
  refine ⟨by omega, by omega, fun v i x k hai hib => ?_⟩
  have hk : (k = i.toNat ∧ k < n) ↔ k = (i + (0 : Nat)).toNat := by omega
  simp only [rd_put, hk]

theorem writesAt_putRes {a b : Int} (ha : -306 ≤ a) (hb : b ≤ 320) : WritesAt hOut a b putRes := by
  have hoff : (hOut : Int) = 306 := rfl
  refine ⟨by omega, by omega, fun v i x k hai hib => ?_⟩
  have hk : (k = (i + hOut).toNat ∧ k < 626) ↔ k = (i + hOut).toNat := by omega
  simp only [putRes, if_pos (show -(hOut : Int) ≤ i by omega), rd_put, hk]

theorem indices_append {a b c : Int} (hab : a ≤ b) (hbc : b ≤ c) :
    indices a c = indices a b ++ indices b c := by
  have hlen : (c - a).toNat = (b - a).toNat + (c - b).toNat := by omega
  simp only [indices, hlen, List.range_add, List.map_append, List.map_map]
  refine congrArg _ (List.map_congr_left fun k _ => ?_)
  simp only [Function.comp]
  omega

theorem indices_cons {a b : Int} (h : a < b) : indices a b = a :: indices (a + 1) b := by
  have hone : indices a (a + 1) = [a] := by simp [indices]
  rw [indices_append (b := a + 1) (by omega) (by omega), hone, List.singleton_append]

section
variable {n off : Nat} {a b : Int} {write : Vector F32 n → Int → F32 → Vector F32 n}
  (hw : WritesAt off a b write) (f : Vector F32 n → Int → F32)
include hw

theorem rd_fill_of_forall_ne {is : List Int} (his : ∀ i ∈ is, a ≤ i ∧ i < b) (v : Vector F32 n) {k : Nat}
    (hk : ∀ i ∈ is, k ≠ (i + off).toNat) : rd (fill write f is v) k 0 = rd v k 0 := by
  induction is generalizing v with
  | nil => rfl
  | cons i is ih =>
    obtain ⟨hi, his⟩ := List.forall_mem_cons.mp his
    obtain ⟨hki, hk⟩ := List.forall_mem_cons.mp hk
    exact (ih his _ hk).trans ((hw.2.2 v i _ k hi.1 hi.2).trans (if_neg hki))

/-- Filling leaves the elements outside the samples. -/
theorem rd_fill_of_outside (v : Vector F32 n) {k : Nat} (hk : (k : Int) < a + off ∨ b + off ≤ k) :
    rd (fill write f (indices a b) v) k 0 = rd v k 0 := by
  refine rd_fill_of_forall_ne hw f (fun i hi => (mem_indices a b i).mp hi) v fun i hi => ?_
  have := (mem_indices a b i).mp hi
  have := hw.1
  omega

/-- The samples behind `i` read before its turn as they do in the end. -/
theorem rd_fill_of_lt (v : Vector F32 n) {i : Int} (ha : a ≤ i) (hb : i ≤ b) {k : Nat} (hk : (k : Int) < i + off) :
    rd (fill write f (indices a i) v) k 0 = rd (fill write f (indices a b) v) k 0 := by
  rw [indices_append ha hb, fill, fill, List.foldl_append]
  refine (rd_fill_of_forall_ne hw f (fun m hm => ?_) _ fun m hm => ?_).symm <;>
    have := (mem_indices i b m).mp hm
  · omega
  · omega

/-- A filled sample reads as computed at its turn. -/
theorem rd_fill (v : Vector F32 n) {i : Int} (ha : a ≤ i) (hb : i < b) :
    rd (fill write f (indices a b) v) (i + off).toNat 0 = f (fill write f (indices a i) v) i := by
  rw [indices_append ha hb.le, indices_cons hb, fill, List.foldl_append, List.foldl_cons]
  refine (rd_fill_of_forall_ne hw f (fun m hm => ?_) _ fun m hm => ?_).trans
    ((hw.2.2 _ i _ _ ha hb).trans (if_pos rfl)) <;>
    have := (mem_indices (i + 1) b m).mp hm
  · omega
  · have := hw.1
    omega

end

/-! ### The views -/

theorem resView_eq (s : State) (res : Vector F32 626) {i : Int} (hlo : -306 ≤ i) (hhi : i < nFrame s.frame.bw) :
    resView s res i = rd res (i + hOut).toNat 0 := if_pos ⟨hlo, hhi⟩

/-- The residual reads the same in two buffers that agree at its element. -/
theorem resView_congr (s : State) {res res' : Vector F32 626} {i : Int}
    (h : -306 ≤ i → rd res (i + hOut).toNat 0 = rd res' (i + hOut).toNat 0) : resView s res i = resView s res' i := by
  rw [resView, resView]
  split
  · next hi => exact h hi.1
  · rfl

/-- The filter output reads the same in two buffers that agree at its element. -/
theorem lpcView_congr (s : State) {lpc lpc' : Vector F32 320} {i : Int}
    (h : 0 ≤ i → rd lpc i.toNat 0 = rd lpc' i.toNat 0) : lpcView s lpc i = lpcView s lpc' i := by
  rw [lpcView, lpcView]
  split
  · next hi => exact h hi.1
  · rfl

/-- A sum of products reads no more terms than it has weights. -/
theorem dot_congr (n : Nat) {x y : Nat → F32} {w : List F32} (h : ∀ k, k < w.length → x k = y k) :
    dot n x w = dot n y w := by
  refine congrArg (fpSumList n) (List.map_congr_left fun p hp => ?_)
  have := List.snd_lt_of_mem_zipIdx hp
  rw [h p.2 (by omega)]

end Sys2Proof.Machine
end

section
/-! PROOFS. SYNTH: the choices of a subframe, the residual, the filter and the output (44_synthesis.md R221 to R226). -/

namespace Sys2Proof.Machine

/-! ### The command -/

theorem priorDone_of_getLsbD {s : State} {arg : BitVec 4} {sub : Fin 4} (harg : arg.toNat = sub.val)
    (h : (arg == 0 || s.phase.getLsbD (21 + arg.toNat)) = true) : priorDone sub s = true := by
  obtain ⟨m, hm⟩ := sub
  have harg' : arg = BitVec.ofNat 4 m := BitVec.eq_of_toNat_eq (by simp_all; omega)
  subst harg'
  match m, hm with
  | 0, _ => rfl
  | 1, _ | 2, _ | 3, _ => simpa [priorDone, phaseHas, phaseIndex] using h

/-- The precondition by its bit numbers is the one of the command (70_reset_and_hazards.md R340). -/
theorem maySynth_of_precondition {s : State} {arg : BitVec 4} {sub : Fin 4} (harg : arg.toNat = sub.val)
    (h : Precondition s (.synth arg) = true) : maySynth sub s = true := by
  simp only [Precondition, Bool.and_eq_true, Bool.not_eq_true'] at h
  obtain ⟨⟨⟨herecon, hgain⟩, hprior⟩, hsyn⟩ := h
  have hset : phaseHas s (.gain (setOfSubframe s sub)) = true := by
    rw [harg] at hgain
    refine (congrArg s.phase.getLsbD ?_).trans hgain
    rw [setOfSubframe]
    split <;> rfl
  have hafter : after .erecon (.syn sub) s = true := by
    simp only [after, phaseHas, phaseIndex, ← harg, herecon, hsyn]
    rfl
  simp only [maySynth, hafter, hset, priorDone_of_getLsbD harg hprior, Bool.and_self]

theorem exec_synth {s : State} {arg : BitVec 4} {sub : Fin 4} (harg : arg.toNat = sub.val)
    (h : Precondition s (.synth arg) = true) : exec (.synth arg) s = .next (complete (synth sub s)) :=
  (onSubframe_of_val harg _ s).trans (command_of_pre _ (maySynth_of_precondition harg h))

/-! ### The choices of a subframe (44_synthesis.md R221) -/

/-- The samples of a subframe lie in the frame. -/
theorem firstSample_add_le (s : State) (sub : Fin 4) :
    firstSample s sub + nSf s.frame.bw ≤ nFrame s.frame.bw := by
  have hsub : sub.val + 1 ≤ 4 := sub.isLt
  calc firstSample s sub + nSf s.frame.bw = (sub.val + 1) * nSf s.frame.bw := by rw [firstSample]; ring
    _ ≤ 4 * nSf s.frame.bw := Nat.mul_le_mul_right _ hsub

theorem outEnd_eq (s : State) (sub : Fin 4) : outEnd s sub =
    if s.work.interp = true ∧ 2 ≤ sub.val then
      ((sub.val * nSf s.frame.bw : Nat) : Int) - ((sub.val : Int) - 2) * nSf s.frame.bw else 0 := by
  simp only [outEnd, rewhitens, Bool.and_eq_true, decide_eq_true_eq, firstSample]
  split
  · rfl
  · push_cast
    ring

/-- The output history ends at or before the subframe and not before the frame. -/
theorem outEnd_bounds (s : State) (sub : Fin 4) : 0 ≤ outEnd s sub ∧ outEnd s sub ≤ firstSample s sub := by
  rw [outEnd_eq, firstSample]
  split
  · next h =>
    have : ((sub.val * nSf s.frame.bw : Nat) : Int) - ((sub.val : Int) - 2) * nSf s.frame.bw =
      2 * nSf s.frame.bw := by push_cast; ring
    have := Nat.mul_le_mul_right (nSf s.frame.bw) h.2
    omega
  · omega

theorem ltpScaleOf_eq (s : State) (sub : Fin 4) : ltpScaleOf s sub =
    if s.work.interp = true ∧ 2 ≤ sub.val then 16384 else s.work.ltpScaleQ14.toInt := by
  simp only [ltpScaleOf, rewhitens, Bool.and_eq_true, decide_eq_true_eq]

theorem gainOf_eq (s : State) (sub : Fin 4) : gainOf s sub = fpOfInt (rdI s.frame.gainQ16 sub.val) := by
  rw [rdI, rd_eq_getElem _ _ _ sub.isLt]
  rfl

theorem lagOf_eq (s : State) (sub : Fin 4) : lagOf s sub = rdI s.work.pitchLag sub.val := by
  rw [rdI, rd_eq_getElem _ _ _ sub.isLt]
  rfl

theorem coefs_eq (s : State) (sub : Fin 4) : coefs s sub = (List.range (dLpc s.frame.bw)).map fun k =>
    fpDiv s.fresh (fpOfInt (rdI s.work.aQ12[setOfSubframe s sub] k)) (fpOfInt 4096) := List.map_map

theorem tapsOf_eq (s : State) (sub : Fin 4) : tapsOf s sub = (List.range 5).map fun k =>
    fpDiv s.fresh (fpOfInt (rdI s.work.bQ7[sub] k)) (fpOfInt 128) := List.map_map

/-! ### The residual (44_synthesis.md R222, R224) -/

theorem writesAt_samples (s : State) (sub : Fin 4) :
    WritesAt hOut (firstSample s sub) (firstSample s sub + nSf s.frame.bw) putRes := by
  have := firstSample_add_le s sub
  have := nFrame_le s.frame.bw
  exact writesAt_putRes (by omega) (by omega)

/-- Outside the subframe the residual is what rewhitening left. -/
theorem rd_residualOf_of_outside (s : State) (sub : Fin 4) {k : Nat}
    (hk : k < 306 + firstSample s sub ∨ 306 + firstSample s sub + nSf s.frame.bw ≤ k) :
    rd (residualOf s sub) k 0 = rd (rewhiten s sub) k 0 := by
  have hoff : (hOut : Int) = 306 := rfl
  exact rd_fill_of_outside (writesAt_samples s sub) (residualAt s sub) (rewhiten s sub) (by omega)

/-- The residual of a sample, computed from S.RESBUF as it is at its turn. -/
theorem rd_residualOf (s : State) (sub : Fin 4) {i : Int} (hlo : firstSample s sub ≤ i)
    (hhi : i < firstSample s sub + nSf s.frame.bw) : rd (residualOf s sub) (i + hOut).toNat 0 =
    residualAt s sub (fill putRes (residualAt s sub) (indices (firstSample s sub) i) (rewhiten s sub)) i :=
  rd_fill (writesAt_samples s sub) (residualAt s sub) (rewhiten s sub) hlo hhi

theorem voiced_iff (s : State) : voiced s = true ↔ s.frame.sigType = .voiced := by
  simp [voiced]

/-- The residual of a frame that is not voiced is the excitation. -/
theorem rd_residualOf_of_not_voiced {s : State} (sub : Fin 4) (h : s.frame.sigType ≠ .voiced) (k : Nat) :
    rd (residualOf s sub) k 0 =
      if 306 + firstSample s sub ≤ k ∧ k < 306 + firstSample s sub + nSf s.frame.bw then
        fpDiv s.fresh (fpOfInt (rdI s.work.eQ23 (k - 306))) (fpOfInt 8388608)
      else rd s.work.resBuf k 0 := by
  have hv : ¬voiced s = true := mt (voiced_iff s).mp h
  split
  · next hk =>
    have hkey : ((k : Int) - 306 + hOut).toNat = k := by simp [hOut]
    have hr := rd_residualOf s sub (i := (k : Int) - 306) (by omega) (by omega)
    rw [hkey, residualAt, if_neg hv] at hr
    rw [hr, show ((k : Int) - 306).toNat = k - 306 by omega]
  · next hk => rw [rd_residualOf_of_outside s sub (by omega), rewhiten, if_neg hv]

section
variable {s : State} {sub : Fin 4}

/-- The samples rewhitened from the output history lie in S.RESBUF. -/
theorem writesAt_outRange (hhi : lagOf s sub ≤ lagMax s.frame.bw) :
    WritesAt hOut (firstSample s sub - lagOf s sub - 2) (outEnd s sub) putRes := by
  have := outEnd_bounds s sub
  have := firstSample_add_le s sub
  have := nFrame_le s.frame.bw
  have : lagMax s.frame.bw ≤ 288 := by cases s.frame.bw <;> decide
  exact writesAt_putRes (by omega) (by omega)

theorem writesAt_lpcRange (s : State) (sub : Fin 4) : WritesAt hOut (outEnd s sub) (firstSample s sub) putRes := by
  have := outEnd_bounds s sub
  have := firstSample_add_le s sub
  have := nFrame_le s.frame.bw
  exact writesAt_putRes (by omega) (by omega)

variable (hv : s.frame.sigType = .voiced)
include hv

/-- The two loops of rewhitening (44_synthesis.md R222). -/
theorem rewhiten_eq : rewhiten s sub =
    fill putRes (fun _ => rewhitenLpc s sub) (indices (outEnd s sub) (firstSample s sub))
      (fill putRes (fun _ => rewhitenOut s sub)
        (indices (firstSample s sub - lagOf s sub - 2) (outEnd s sub)) s.work.resBuf) :=
  if_pos ((voiced_iff s).mpr hv)

/-- The residual before the filter's own output is rewhitened from the output history. -/
theorem resView_residualOf_out (hhi : lagOf s sub ≤ lagMax s.frame.bw) {i : Int}
    (hi : firstSample s sub - lagOf s sub - 2 ≤ i) (hi' : i < outEnd s sub) :
    resView s (residualOf s sub) i = rewhitenOut s sub i := by
  have hw := writesAt_outRange hhi
  have hoff : (hOut : Int) = 306 := rfl
  have := hw.1
  have := outEnd_bounds s sub
  have := firstSample_add_le s sub
  rw [resView_eq s _ (by omega) (by omega), rd_residualOf_of_outside s sub (by omega), rewhiten_eq hv,
    rd_fill_of_outside (writesAt_lpcRange s sub) _ _ (by omega), rd_fill hw _ _ hi hi']

/-- From there to the subframe it is rewhitened from the filter's own output. -/
theorem resView_residualOf_lpc {i : Int} (hi : outEnd s sub ≤ i) (hi' : i < firstSample s sub) :
    resView s (residualOf s sub) i = rewhitenLpc s sub i := by
  have hoff : (hOut : Int) = 306 := rfl
  have := outEnd_bounds s sub
  have := firstSample_add_le s sub
  rw [resView_eq s _ (by omega) (by omega), rd_residualOf_of_outside s sub (by omega), rewhiten_eq hv,
    rd_fill (writesAt_lpcRange s sub) _ _ hi hi']

/-- In the subframe the taps read, one lag before, the residual as it is in the end. -/
theorem resView_residualOf_sample (hlo : (lagMin s.frame.bw : Int) ≤ lagOf s sub) {i : Int}
    (hi : firstSample s sub ≤ i) (hi' : i < firstSample s sub + nSf s.frame.bw) :
    resView s (residualOf s sub) i =
      fpAdd s.fresh (fpDiv s.fresh (fpOfInt (rdI s.work.eQ23 i.toNat)) (fpOfInt 8388608))
        (dot s.fresh (fun k => resView s (residualOf s sub) (i - lagOf s sub + 2 - k)) (tapsOf s sub)) := by
  have := firstSample_add_le s sub
  have : 16 ≤ lagMin s.frame.bw := by cases s.frame.bw <;> decide
  have hoff : (hOut : Int) = 306 := rfl
  rw [resView_eq s _ (by omega) (by omega), rd_residualOf s sub hi hi', residualAt,
    if_pos ((voiced_iff s).mpr hv)]
  refine congrArg _ (dot_congr _ fun k _ => resView_congr s fun _ => ?_)
  exact rd_fill_of_lt (writesAt_samples s sub) _ _ hi hi'.le (by omega)

end

/-! ### The filter and the output (44_synthesis.md R225, R226) -/

theorem writesAt_put_samples (s : State) (sub : Fin 4) : WritesAt (n := 320) 0 (firstSample s sub)
    (firstSample s sub + nSf s.frame.bw) (fun v i => put v i.toNat) := by
  have := firstSample_add_le s sub
  have := nFrame_le s.frame.bw
  exact writesAt_put (by omega) (by omega)

theorem rd_filterOf_of_outside (s : State) (sub : Fin 4) (res : Vector F32 626) {k : Nat}
    (hk : k < firstSample s sub ∨ firstSample s sub + nSf s.frame.bw ≤ k) :
    rd (filterOf s sub res) k 0 = rd s.work.lpcBuf k 0 :=
  rd_fill_of_outside (writesAt_put_samples s sub) (filterAt s sub res) s.work.lpcBuf (by omega)

/-- A filtered sample, the recursion on the filter output as it is in the end. -/
theorem rd_filterOf (s : State) (sub : Fin 4) (res : Vector F32 626) {k : Nat} (hlo : firstSample s sub ≤ k)
    (hhi : k < firstSample s sub + nSf s.frame.bw) : rd (filterOf s sub res) k 0 =
    filterAt s sub res (filterOf s sub res) k := by
  refine (rd_fill (writesAt_put_samples s sub) (filterAt s sub res) s.work.lpcBuf (i := k) (by omega)
    (by omega)).trans ?_
  rw [filterAt, filterAt]
  refine congrArg _ (dot_congr _ fun m _ => lpcView_congr s fun _ => ?_)
  exact rd_fill_of_lt (writesAt_put_samples s sub) _ _ (by omega) (by omega) (by omega)

theorem rd_outputOf_of_outside (s : State) (sub : Fin 4) (lpc : Vector F32 320) {k : Nat}
    (hk : k < firstSample s sub ∨ firstSample s sub + nSf s.frame.bw ≤ k) :
    rd (outputOf s sub lpc) k 0 = rd s.work.out k 0 :=
  rd_fill_of_outside (writesAt_put_samples s sub) (fun _ i => fpClamp1 (rd lpc i.toNat 0)) s.work.out (by omega)

/-- An output sample is the clamped filter output. -/
theorem rd_outputOf (s : State) (sub : Fin 4) (lpc : Vector F32 320) {k : Nat} (hlo : firstSample s sub ≤ k)
    (hhi : k < firstSample s sub + nSf s.frame.bw) : rd (outputOf s sub lpc) k 0 = fpClamp1 (rd lpc k 0) :=
  rd_fill (writesAt_put_samples s sub) (fun _ i => fpClamp1 (rd lpc i.toNat 0)) s.work.out (i := k) (by omega)
    (by omega)

end Sys2Proof.Machine
end

section
/-! PROOFS. The statements of 44_synthesis.md, settled. -/

open Sys2Proof Sys2Proof.Machine

/-- Settles O47: the recursion reads samples that later turns leave as they are. -/
theorem synthFiltersTheSubframe : Obligations.SynthFiltersTheSubframe := by
  intro s arg sub harg hpre n j set
  refine ⟨_, s.fresh, exec_synth harg hpre, ?_, fun i hi => ?_, rfl⟩
  · intro a i hlo hhi
    have ha : a = coefs s sub := (coefs_eq s sub).symm
    rw [← gainOf_eq, ha]
    exact ⟨rd_filterOf s sub _ hlo hhi, rd_outputOf s sub _ hlo hhi⟩
  · exact ⟨rd_filterOf_of_outside s sub _ hi, rd_outputOf_of_outside s sub _ hi⟩

/-- Settles O48, by the three ranges of S.RESBUF that SYNTH writes. -/
theorem residualAddsTheLtpFilter : Obligations.ResidualAddsTheLtpFilter := by
  constructor
  · intro s arg sub harg hpre hv n j
    exact ⟨_, s.fresh, exec_synth harg hpre, fun k _ => rd_residualOf_of_not_voiced sub hv k⟩
  · intro s arg sub harg hpre hv bw n j lag rewhitening outEnd' scale g set a taps hlo hhi
    have hj : j = firstSample s sub := (Int.natCast_mul _ _).symm
    have hlag : lag = lagOf s sub := (lagOf_eq s sub).symm
    have hend : outEnd' = outEnd s sub := by
      rw [outEnd_eq, Int.natCast_mul]
    have hscale : scale = ltpScaleOf s sub := (ltpScaleOf_eq s sub).symm
    have hg : g = gainOf s sub := (gainOf_eq s sub).symm
    have ha : a s.fresh = coefs s sub := (coefs_eq s sub).symm
    have htaps : taps s.fresh = tapsOf s sub := (tapsOf_eq s sub).symm
    rw [hlag] at hlo hhi
    refine ⟨_, s.fresh, exec_synth harg hpre, ?_⟩
    rw [hj, hlag, hend, hscale, hg, ha, htaps]
    exact ⟨fun i hi hi' => resView_residualOf_out hv hhi hi hi', fun i hi hi' => resView_residualOf_lpc hv hi hi',
      fun i hi hi' => resView_residualOf_sample hv hlo hi hi'⟩

/-- Settles O49: the largest lag and the order of the wide band reach back to -306, no further. -/
theorem synthReadsOnlyWhatExists : Obligations.SynthReadsOnlyWhatExists := by
  intro s sub i k hlo hhi hk j
  have hend := outEnd_bounds s sub
  have hframe := firstSample_add_le s sub
  have hreach : lagMax s.frame.bw + 2 + dLpc s.frame.bw ≤ 306 := by cases s.frame.bw <;> decide
  have hmin : 16 ≤ lagMin s.frame.bw := by cases s.frame.bw <;> decide
  simp only [samplesOf, mem_indices]
  omega

/-- Settles O50: every sample of the subframe is clamped. -/
theorem outputSamplesStayWithinOne : Obligations.OutputSamplesStayWithinOne := by
  intro s arg sub harg hpre
  refine ⟨_, exec_synth harg hpre, fun i hlo hhi => ?_⟩
  have hout : rd (complete (synth sub s)).work.out i 0 = fpClamp1 (rd (complete (synth sub s)).work.lpcBuf i 0) :=
    rd_outputOf s sub _ hlo (hhi.trans_eq (Nat.succ_mul _ _))
  rw [hout]
  exact fpClamp1_isNan_or _

/-- Settles O51: every result is a significand at an exponent that fpRound rounds. -/
theorem floatRoundingIsNearestEven : Obligations.FloatRoundingIsNearestEven :=
  ⟨rounds_fpRound, rounds_fpOfInt, fun u _ _ _ _ hp hq =>
    ⟨rounds_fpAdd hp hq u, rounds_fpSub hp hq u, rounds_fpMul hp hq u, fun hne => rounds_fpDiv hp hq hne u⟩⟩

/-- Settles O52: 16 bits fit the significand, and a division by 4096 moves the exponent. -/
theorem coefficientConversionIsExact : Obligations.CoefficientConversionIsExact := by
  intro u a
  have hlo := BitVec.le_toInt a
  have hhi := BitVec.toInt_lt (x := a)
  have hnum := rationalOf_fpOfInt (v := a.toInt) (by omega)
  have hden := rationalOf_fpOfInt (v := 4096) (by decide)
  have hquot := rationalOf_fpRound (decide (a.toInt < 0)) (m := a.toInt.natAbs) (e := -12) (by omega) (by decide)
    (by decide)
  rw [signQ_mul_natAbs, show (2 : ℚ) ^ (-12 : Int) = 1 / 4096 by norm_num, mul_one_div] at hquot
  have hbound : |(a.toInt : ℚ) / 4096| < 2 ^ 128 - 2 ^ 103 := by
    have hlo' : (-(2 ^ 15 : Int) : ℚ) ≤ a.toInt := by exact_mod_cast hlo
    have hhi' : (a.toInt : ℚ) < (2 ^ 15 : Int) := by exact_mod_cast hhi
    push_cast at hlo' hhi'
    rw [abs_lt]
    constructor <;> linarith
  exact rationalOf_of_rounds (rounds_fpDiv hnum hden (by norm_num) u) hbound hquot

end

section
/-! PROOFS. The frame control commands: what an accepted FRAME_BEGIN opens, what FRAME_END commits
(45_frame_control.md R240, R241, R244). -/

namespace Sys2Proof.Machine

/-! ### The arguments of FRAME_BEGIN -/

theorem exists_bwReq {s : State} (h : s.cfg.toNat % 4 < 3) :
    ∃ bw, bwReq s = some bw ∧ bwCode bw = s.cfg.toNat % 4 := by
  obtain h | h | h : s.cfg.toNat % 4 = 0 ∨ s.cfg.toNat % 4 = 1 ∨ s.cfg.toNat % 4 = 2 := by omega
  · exact ⟨.nb, by simp [bwReq, h], h.symm⟩
  · exact ⟨.mb, by simp [bwReq, h], h.symm⟩
  · exact ⟨.wb, by simp [bwReq, h], h.symm⟩

theorem exists_sigTypeIn {s : State} (h : s.frameInfo.toNat % 4 < 3) :
    ∃ sig, sigTypeIn s = some sig ∧ sigCode sig = s.frameInfo.toNat % 4 := by
  obtain h | h | h : s.frameInfo.toNat % 4 = 0 ∨ s.frameInfo.toNat % 4 = 1 ∨ s.frameInfo.toNat % 4 = 2 := by omega
  · exact ⟨.inactive, by simp [sigTypeIn, h], h.symm⟩
  · exact ⟨.unvoiced, by simp [sigTypeIn, h], h.symm⟩
  · exact ⟨.voiced, by simp [sigTypeIn, h], h.symm⟩

theorem samplesFor_bwCode (bw : Bandwidth) : samplesFor (bwCode bw) = nFrame bw := by
  cases bw <;> rfl

theorem gainsPositive_of_forall {s : State} (h : ∀ k, k < 4 → 0 < rdI s.gainIn k) : gainsPositive s = true := by
  simp only [gainsPositive, List.all_eq_true, decide_eq_true_eq]
  intro g hg
  obtain ⟨k, hk, rfl⟩ := List.mem_iff_getElem.mp hg
  rw [Vector.length_toList] at hk
  have hpos := h k hk
  rwa [rdI, rd_eq_getElem _ _ _ hk] at hpos

/-- Arguments that pass the checks are accepted, by their codes (45_frame_control.md R240). -/
theorem checkFrame_of_argumentsOk {s : State} (h : ArgumentsOk s) : ∃ bw sig, checkFrame s = .accept bw sig ∧
    bwCode bw = s.cfg.toNat % 4 ∧ sigCode sig = s.frameInfo.toNat % 4 := by
  obtain ⟨hf, hdur, hstereo, hcfg, hcap, hinfo, hgains⟩ := h
  obtain ⟨bw, hbw, hbwCode⟩ := exists_bwReq hcfg
  obtain ⟨sig, hsig, hsigCode⟩ := exists_sigTypeIn hinfo
  rw [← hbwCode, samplesFor_bwCode] at hcap
  have hclosed : phaseHas s .f = false := hf
  have hmono : stereoReq s = false := hstereo
  refine ⟨bw, sig, ?_, hbwCode, hsigCode⟩
  simp [checkFrame, hclosed, hdur, frameNs, hmono, hbw, Nat.not_lt.mpr hcap, hsig, gainsPositive_of_forall hgains]

theorem exec_frameBegin_of_accept {s : State} {bw : Bandwidth} {sig : SigType} (h : checkFrame s = .accept bw sig) :
    exec .frameBegin s = .next (complete (frameBegin bw sig s)) := by
  simp only [exec, execFrameBegin, h]

theorem exec_decodeFrame_of_accept {s : State} {bw : Bandwidth} {sig : SigType} (h : checkFrame s = .accept bw sig) :
    exec .decodeFrame s = .next (complete (wholeFrame (frameBegin bw sig s))) := by
  simp only [exec, execDecodeFrame, h]

theorem exec_decodeFrame_of_reject {s : State} {c : ErrCode} (h : checkFrame s = .reject c) :
    exec .decodeFrame s = raiseError c s := by
  simp only [exec, execDecodeFrame, h]

theorem qoffIn_eq_high_iff (s : State) : qoffIn s = .high ↔ s.frameInfo.getLsbD 4 = true := by
  simp [qoffIn]

/-! ### The bandwidth change (45_frame_control.md R241) -/

theorem reinit_of_change {bw : Bandwidth} {d : Decoder} (h : d.haveDecoded = true ∧ bw ≠ d.prevBw) :
    reinit bw d = { Decoder.reset with prevBw := d.prevBw } := if_pos h

theorem reinit_of_no_change {bw : Bandwidth} {d : Decoder} (h : ¬(d.haveDecoded = true ∧ bw ≠ d.prevBw)) :
    reinit bw d = d := if_neg h

theorem reinit_cleared {bw : Bandwidth} {d : Decoder} (h : d.haveDecoded = true ∧ bw ≠ d.prevBw) :
    DecoderCleared (reinit bw d) ∧ (reinit bw d).prevBw = d.prevBw := by
  rw [reinit_of_change h]
  exact ⟨decoderCleared_reset, rfl⟩

/-! ### What FRAME_END commits (45_frame_control.md R244) -/

/-- A frame is longer than the filter's memory, so that the committed filter outputs are the frame's own. -/
theorem order_lt_nFrame (s : State) : order s < nFrame s.frame.bw := by
  rw [order]
  cases s.frame.bw <;> decide

/-- The output `k` samples before the frame's last one: the frame's, or before it the history's. -/
theorem outView_last_sub (s : State) {k : Nat} (hk : k < hOut) :
    outView s s.work.out ((nFrame s.frame.bw : Int) - 1 - k) =
      if k < nFrame s.frame.bw then rd s.work.out (nFrame s.frame.bw - 1 - k) 0
      else rd s.dec.outHist (k - nFrame s.frame.bw) 0 := by
  rw [outView]
  split
  · next h =>
    rw [if_pos (by omega), show ((nFrame s.frame.bw : Int) - 1 - k).toNat = nFrame s.frame.bw - 1 - k by omega]
  · next h =>
    rw [if_pos (by omega), if_neg (by omega),
      show (-1 - ((nFrame s.frame.bw : Int) - 1 - k)).toNat = k - nFrame s.frame.bw by omega]

theorem lpcView_last_sub (s : State) {k : Nat} (hk : k < nFrame s.frame.bw) :
    lpcView s s.work.lpcBuf ((nFrame s.frame.bw : Int) - 1 - k) =
      rd s.work.lpcBuf (nFrame s.frame.bw - 1 - k) 0 := by
  rw [lpcView, if_pos (by omega), show ((nFrame s.frame.bw : Int) - 1 - k).toNat = nFrame s.frame.bw - 1 - k by omega]

theorem frameEnd_outHist (s : State) {k : Nat} (hk : k < 306) : rd (frameEnd s).dec.outHist k 0 =
    if k < nFrame s.frame.bw then rd s.work.out (nFrame s.frame.bw - 1 - k) 0
    else rd s.dec.outHist (k - nFrame s.frame.bw) 0 := by
  simp only [frameEnd, rd_build, if_pos hk]
  exact outView_last_sub s hk

theorem frameEnd_lpcHist (s : State) {k : Nat} (hk : k < 16) : rd (frameEnd s).dec.lpcHist k 0 =
    if k < order s then rd s.work.lpcBuf (nFrame s.frame.bw - 1 - k) 0 else 0 := by
  simp only [frameEnd, rd_build, if_pos hk]
  exact ite_congr rfl (fun h => lpcView_last_sub s (h.trans (order_lt_nFrame s))) fun _ => rfl

theorem frameEnd_prevNlsf (s : State) {k : Nat} (hk : k < 16) : rd (frameEnd s).dec.prevNlsf k 0 =
    if k < order s then rd s.work.nlsf2 k 0 else 0 := by
  simp only [frameEnd, rd_build, if_pos hk]

end Sys2Proof.Machine
end

section
/-! PROOFS. Commands as instructions: every PHASE bit has its command, which runs the bit's stage exactly where the
stage may run (70_reset_and_hazards.md R340), and a list of commands runs their stages in order. -/

namespace Sys2Proof.Machine

/-- The command that marks a PHASE bit (10_state.md R29). -/
def commandOf : PhaseBit → Instr
  | .f => .frameBegin
  | .s1 => .lsfS1
  | .s2 => .lsfS2
  | .recon => .lsfRecon
  | .stab => .lsfStab
  | .interp => .lsfInterp
  | .conv set => .lpcConvert (BitVec.ofNat 4 set)
  | .range set => .lpcRange (BitVec.ofNat 4 set)
  | .gain set => .lpcGainlim (BitVec.ofNat 4 set)
  | .pitch => .pitchLags
  | .ltpc => .ltpCoefs
  | .ltps => .ltpScale
  | .seed => .excSeed
  | .rate => .excRate
  | .counts => .excCounts
  | .shell => .excShell
  | .lsb => .excLsb
  | .signs => .excSigns
  | .erecon => .excRecon
  | .syn sub => .synth (BitVec.ofNat 4 sub)

/-- All the command of a stage can do: the stage where it may run, else SEQUENCE_ERROR. -/
def RunsStage (b : PhaseBit) (s : State) (o : Outcome) : Prop :=
  (MayRun b s ∧ o = .next (complete (stageEffect b s))) ∨ (¬MayRun b s ∧ o = raiseError .sequenceError s)

theorem RunsStage.of_mayRun {b : PhaseBit} {s : State} {o : Outcome} (h : RunsStage b s o) (hrun : MayRun b s) :
    o = .next (complete (stageEffect b s)) := h.elim (·.2) (absurd hrun ·.1)

/-- A stage keeps the persistent state and the latched parameters, and so does its error. -/
theorem RunsStage.dec_frame {b : PhaseBit} {s t : State} (h : RunsStage b s (.next t)) :
    t.dec = s.dec ∧ t.frame = s.frame := by
  obtain ⟨-, ht⟩ | ⟨-, ht⟩ := h <;> cases ht
  · exact ⟨stageEffect_dec b s, stageEffect_frame b s⟩
  · exact ⟨rfl, rfl⟩

theorem command_runsStage {pre : State → Bool} {b : PhaseBit} {s : State} (h : pre s = true ↔ MayRun b s) :
    RunsStage b s (command pre (stageEffect b) s) := by
  rcases command_cases pre (stageEffect b) s with ⟨hpre, hc⟩ | ⟨hpre, hc⟩
  · exact .inl ⟨h.mp hpre, hc⟩
  · exact .inr ⟨fun hrun => by simp [h.mpr hrun] at hpre, hc⟩

theorem after_iff_mayRun {x b : PhaseBit} {s : State} (hb : b ≠ .f) (hx : Requires s b ↔ phaseHas s x = true) :
    after x b s = true ↔ MayRun b s := by
  simp [after, MayRun, hb, hx]

theorem mayConvert_iff_mayRun {set : Fin 2} {s : State} : mayConvert set s = true ↔ MayRun (.conv set) s := by
  simp [mayConvert, after, MayRun, Requires, and_right_comm, imp_iff_not_or]

theorem maySynth_iff_mayRun {sub : Fin 4} {s : State} : maySynth sub s = true ↔ MayRun (.syn sub) s := by
  simp only [maySynth, after, MayRun, Requires, Bool.and_eq_true, Bool.not_eq_true', ne_eq, reduceCtorEq,
    not_false_eq_true, true_and]
  tauto

theorem mayPitch_iff_mayRun {s : State} : (after .interp .pitch s && voiced s) = true ↔ MayRun .pitch s := by
  simp [after, voiced, MayRun, Requires, and_right_comm]

theorem maySeed_iff_mayRun {s : State} :
    (after .interp .seed s && (!voiced s || phaseHas s .ltps)) = true ↔ MayRun .seed s := by
  simp [after, voiced, MayRun, Requires, and_right_comm, imp_iff_not_or]

theorem onSet_runsStage {b : Fin 2 → PhaseBit} {run : Fin 2 → State → Outcome} {s : State} {set : Fin 2}
    (h : RunsStage (b set) s (run set s)) : RunsStage (b set) s (onSet (BitVec.ofNat 4 set) run s) := by
  rwa [onSet_of_val (set := set) (by simp; omega)]

theorem onSubframe_runsStage {b : Fin 4 → PhaseBit} {run : Fin 4 → State → Outcome} {s : State} {sub : Fin 4}
    (h : RunsStage (b sub) s (run sub s)) : RunsStage (b sub) s (onSubframe (BitVec.ofNat 4 sub) run s) := by
  rwa [onSubframe_of_val (sub := sub) (by simp; omega)]

/-- The command of a stage runs the stage exactly where the stage may run. -/
theorem exec_commandOf {b : PhaseBit} (hb : b ≠ .f) (s : State) : RunsStage b s (exec (commandOf b) s) := by
  have hafter := fun x hx => command_runsStage (after_iff_mayRun (x := x) (s := s) hb hx)
  cases b with
  | f => exact absurd rfl hb
  | s1 => exact hafter .f .rfl
  | s2 => exact hafter .s1 .rfl
  | recon => exact hafter .s2 .rfl
  | stab => exact hafter .recon .rfl
  | interp => exact hafter .stab .rfl
  | conv set => exact onSet_runsStage (b := .conv) (command_runsStage mayConvert_iff_mayRun)
  | range set => exact onSet_runsStage (b := .range) (hafter (.conv set) .rfl)
  | gain set => exact onSet_runsStage (b := .gain) (hafter (.range set) .rfl)
  | pitch => exact command_runsStage (pre := fun s => after .interp .pitch s && voiced s) mayPitch_iff_mayRun
  | ltpc => exact hafter .pitch .rfl
  | ltps => exact hafter .ltpc .rfl
  | seed =>
    exact command_runsStage (pre := fun s => after .interp .seed s && (!voiced s || phaseHas s .ltps))
      maySeed_iff_mayRun
  | rate => exact hafter .seed .rfl
  | counts => exact hafter .rate .rfl
  | shell => exact hafter .counts .rfl
  | lsb => exact hafter .shell .rfl
  | signs => exact hafter .lsb .rfl
  | erecon => exact hafter .signs .rfl
  | syn sub => exact onSubframe_runsStage (b := .syn) (command_runsStage maySynth_iff_mayRun)

/-- Every well-formed command but the four of frame control is that of a stage. -/
theorem exists_commandOf {i : Instr} (hwf : i.wf = true)
    (hi : i ∉ [Instr.frameBegin, .frameEnd, .resetState, .decodeFrame]) : ∃ b, b ≠ .f ∧ i = commandOf b := by
  have hset : ∀ arg : BitVec 4, decide (arg.toNat < 2) = true → ∃ set : Fin 2, arg = BitVec.ofNat 4 set := by decide
  have hsub : ∀ arg : BitVec 4, decide (arg.toNat < 4) = true → ∃ sub : Fin 4, arg = BitVec.ofNat 4 sub := by decide
  cases i with
  | resetState => simp at hi
  | frameBegin => simp at hi
  | frameEnd => simp at hi
  | decodeFrame => simp at hi
  | lsfS1 => exact ⟨.s1, nofun, rfl⟩
  | lsfS2 => exact ⟨.s2, nofun, rfl⟩
  | lsfRecon => exact ⟨.recon, nofun, rfl⟩
  | lsfStab => exact ⟨.stab, nofun, rfl⟩
  | lsfInterp => exact ⟨.interp, nofun, rfl⟩
  | lpcConvert arg => obtain ⟨set, rfl⟩ := hset arg hwf; exact ⟨.conv set, nofun, rfl⟩
  | lpcRange arg => obtain ⟨set, rfl⟩ := hset arg hwf; exact ⟨.range set, nofun, rfl⟩
  | lpcGainlim arg => obtain ⟨set, rfl⟩ := hset arg hwf; exact ⟨.gain set, nofun, rfl⟩
  | pitchLags => exact ⟨.pitch, nofun, rfl⟩
  | ltpCoefs => exact ⟨.ltpc, nofun, rfl⟩
  | ltpScale => exact ⟨.ltps, nofun, rfl⟩
  | excSeed => exact ⟨.seed, nofun, rfl⟩
  | excRate => exact ⟨.rate, nofun, rfl⟩
  | excCounts => exact ⟨.counts, nofun, rfl⟩
  | excShell => exact ⟨.shell, nofun, rfl⟩
  | excLsb => exact ⟨.lsb, nofun, rfl⟩
  | excSigns => exact ⟨.signs, nofun, rfl⟩
  | excRecon => exact ⟨.erecon, nofun, rfl⟩
  | synth arg => obtain ⟨sub, rfl⟩ := hsub arg hwf; exact ⟨.syn sub, nofun, rfl⟩

/-! ### Lists of commands -/

theorem runCommands_cons {i : Instr} {s t : State} (h : exec i s = .next t) (is : List Instr) :
    runCommands (i :: is) s = runCommands is t := by
  simp only [runCommands, h]

@[simp] theorem mayRun_complete (b : PhaseBit) (s : State) : MayRun b (complete s) ↔ MayRun b s := by
  cases b <;> exact .rfl

/-- No stage reads DONE. -/
theorem complete_stageEffect_complete (b : PhaseBit) (s : State) :
    complete (stageEffect b (complete s)) = complete (stageEffect b s) := by
  cases b <;> rfl

/-- The commands of stages that may run in order, and then those of a list: DONE is set again and again. -/
theorem runCommands_stages {bs : List PhaseBit} {s : State} (h : Runnable bs s) (is : List Instr) :
    runCommands (bs.map commandOf ++ is) (complete s) = runCommands is (complete (runStages bs s)) := by
  induction bs generalizing s with
  | nil => rfl
  | cons b bs ih =>
    obtain ⟨hb, hbs⟩ := h
    have hexec := (exec_commandOf hb.1 (complete s)).of_mayRun ((mayRun_complete b s).mpr hb)
    rw [complete_stageEffect_complete] at hexec
    rw [List.map_cons, List.cons_append, runCommands_cons hexec, ih hbs]
    rfl

theorem exec_frameEnd {s : State} (h : phaseHas s (.syn 3) = true) :
    exec .frameEnd s = .next (complete (frameEnd s)) :=
  command_of_pre (pre := fun s => phaseHas s (.syn 3)) frameEnd h

/-! ### The sequence of DECODE_FRAME (45_frame_control.md R246) -/

@[simp] theorem stageEffect_err (b : PhaseBit) (s : State) : (stageEffect b s).err = s.err := by
  cases b <;> rfl

@[simp] theorem stageEffect_errCode (b : PhaseBit) (s : State) : (stageEffect b s).errCode = s.errCode := by
  cases b <;> rfl

@[simp] theorem runStages_err (bs : List PhaseBit) (s : State) : (runStages bs s).err = s.err := by
  induction bs generalizing s with
  | nil => rfl
  | cons b bs ih => exact (ih _).trans (stageEffect_err b s)

@[simp] theorem runStages_errCode (bs : List PhaseBit) (s : State) : (runStages bs s).errCode = s.errCode := by
  induction bs generalizing s with
  | nil => rfl
  | cons b bs ih => exact (ih _).trans (stageEffect_errCode b s)

@[simp] theorem wholeFrame_err (s : State) : (wholeFrame s).err = s.err := by
  simp [wholeFrame_eq]

@[simp] theorem wholeFrame_errCode (s : State) : (wholeFrame s).errCode = s.errCode := by
  simp [wholeFrame_eq]

@[simp] theorem wholeFrame_prevBw (s : State) : (wholeFrame s).dec.prevBw = s.frame.bw := by
  simp [wholeFrame_eq]

/-- FRAME_BEGIN and the LSF commands. -/
theorem runCommands_lsf {s : State} {bw : Bandwidth} {sig : SigType} (h : checkFrame s = .accept bw sig) :
    runCommands [.frameBegin, .lsfS1, .lsfS2, .lsfRecon, .lsfStab, .lsfInterp] s =
      .next (complete (runStages lsfStages (frameBegin bw sig s))) := by
  rw [runCommands_cons (exec_frameBegin_of_accept h)]
  exact runCommands_stages (runnable_lsfStages (phaseHas_frameBegin bw sig s)) []

/-- The commands of the stages after LSF_INTERP. -/
theorem map_commandOf_lateStages (interp : Bool) (s : State) : (lateStages interp (voiced s)).map commandOf =
    (if interp then [.lpcConvert 0, .lpcRange 0, .lpcGainlim 0] else []) ++
      [.lpcConvert 1, .lpcRange 1, .lpcGainlim 1] ++
      (if s.frame.sigType = .voiced then [.pitchLags, .ltpCoefs, .ltpScale] else []) ++
      [.excSeed, .excRate, .excCounts, .excShell, .excLsb, .excSigns, .excRecon,
        .synth 0, .synth 1, .synth 2, .synth 3] := by
  by_cases hv : s.frame.sigType = .voiced
  · rw [if_pos hv, (voiced_iff s).mpr hv]
    cases interp <;> rfl
  · rw [if_neg hv, Bool.eq_false_iff.mpr (mt (voiced_iff s).mp hv)]
    cases interp <;> rfl

/-- The commands after LSF_INTERP and FRAME_END. -/
theorem runCommands_late {s : State} (h : ∀ c, phaseHas s c = decide (c ∈ PhaseBit.f :: lsfStages)) :
    runCommands ((lateStages s.work.interp (voiced s)).map commandOf ++ [.frameEnd]) (complete s) =
      .next (complete (frameEnd (runStages (lateStages s.work.interp (voiced s)) s))) := by
  rw [runCommands_stages (runnable_lateStages h), runCommands_cons (exec_frameEnd ?_)]
  · rfl
  · simp [lateStages, excStages]

end Sys2Proof.Machine
end

section
/-! PROOFS. How many symbols a stage requests at most, and so a frame (45_frame_control.md R247). -/

namespace Sys2Proof.Machine

/-- The most requests of a stage on a frame of a bandwidth (45_frame_control.md R247). -/
def requestBound (bw : Bandwidth) : PhaseBit → Nat
  | .s1 | .interp | .ltps | .seed | .rate => 1
  | .s2 => 2 * dLpc bw
  | .pitch => 2 + 4
  | .ltpc => 5
  | .counts => 11 * nShell bw
  | .shell => 15 * nShell bw
  | .lsb => 16 * 10 * nShell bw
  | .signs => 16 * nShell bw
  | .f | .recon | .stab | .conv _ | .range _ | .gain _ | .erecon | .syn _ => 0

/-- The rate level selects a table, and the counts of every block are in range (10_state.md R40): what bounds the
requests of EXC_COUNTS, EXC_SHELL and EXC_LSB. -/
def CountsInRange (s : State) : Prop :=
  s.work.rateLevel < 9 ∧ ∀ b, b < 20 → rd s.work.pulseCount b 0 ≤ 16 ∧ rd s.work.lsbCount b 0 ≤ 10

theorem countsInRange_frameBegin (bw : Bandwidth) (sig : SigType) (s : State) :
    CountsInRange (frameBegin bw sig s) := by
  rw [CountsInRange, frameBegin_work]
  exact ⟨by decide, fun b _ => counts_reset b⟩

theorem stage_countsInRange (b : PhaseBit) {s : State} (h : CountsInRange s) : CountsInRange (stageEffect b s) :=
  ⟨stage_rateLevel b h.1, fun k hk => stage_counts b h.1 hk (h.2 k hk)⟩

/-- The request counter moves on by at most `n`. -/
def Requests (n : Nat) (c c' : Cursor) : Prop := c.served ≤ c'.served ∧ c'.served ≤ c.served + n

theorem requests_of_eq {c c' : Cursor} {k n : Nat} (h : c'.served = c.served + k) (hk : k ≤ n) :
    Requests n c c' := by
  rw [Requests]
  omega

theorem requests_sym {m : Nat} {tab : Icdf} (h : icdfWf m tab = true) (c : Cursor) : Requests 1 c (sym tab c).2 :=
  requests_of_eq (sym_served h c) le_rfl

/-- LSF_INTERP makes at most one request, on a first frame none unless it reads the factor it overrides
(40_lsf.md R112). -/
theorem requests_interpFactor (s : State) : Requests 1 s.cursor (interpFactor s).2 := by
  obtain ⟨-, -, -, -, hicdf, -⟩ := params_wf s
  rw [interpFactor]
  split
  · dsimp only
    split
    · exact requests_sym hicdf s.cursor
    · exact requests_of_eq rfl (Nat.zero_le 1)
  · exact requests_sym hicdf s.cursor

/-- Drawing over a list never takes the request counter back. -/
theorem served_le_drawEach {α β : Type} {f : α → Cursor → β × Cursor} {as : List α}
    (h : ∀ a ∈ as, ∀ c, c.served ≤ (f a c).2.served) (c : Cursor) : c.served ≤ (drawEach f as c).2.served := by
  induction as generalizing c with
  | nil => exact le_rfl
  | cons a as ih => exact (h a List.mem_cons_self c).trans (ih (fun b hb => h b (List.mem_cons_of_mem _ hb)) _)

theorem requests_excShell {s : State} (hcount : ∀ b, b < blocks s → rd s.work.pulseCount b 0 ≤ 16) :
    Requests (15 * blocks s) s.cursor (excShell s).cursor := by
  refine ⟨served_le_drawEach (fun b hb c => ?_) s.cursor, excShell_served hcount⟩
  obtain ⟨-, hserved, -⟩ := shellDecode_spec s (le_refl 4) (hcount b (List.mem_range.mp hb)) c
  exact hserved

/-- Ten bits a sample at most (43_excitation.md R196). -/
theorem requests_excLsb {s : State} (hcount : ∀ b, b < blocks s → rd s.work.lsbCount b 0 ≤ 10) :
    Requests (16 * 10 * blocks s) s.cursor (excLsb s).cursor := by
  refine requests_of_eq (excLsb_served s) ?_
  have hsum := List.sum_le_card_nsmul ((List.range (blocks s)).map fun b => 16 * rd s.work.lsbCount b 0) (16 * 10)
    fun x hx => by
      obtain ⟨b, hb, rfl⟩ := List.mem_map.mp hx
      exact Nat.mul_le_mul_left 16 (hcount b (List.mem_range.mp hb))
  rwa [List.length_map, List.length_range, smul_eq_mul, Nat.mul_comm] at hsum

/-- One sign a sample at most (43_excitation.md R197). -/
theorem requests_excSigns (s : State) : Requests (16 * blocks s) s.cursor (excSigns s).cursor :=
  requests_of_eq (excSigns_served s) ((List.length_filter_le _ _).trans_eq List.length_range)

theorem requests_pitchLags (s : State) : Requests (2 + 4) s.cursor (pitchLags s).cursor := by
  refine requests_of_eq ((pitchLags_served s).trans (Nat.add_assoc _ _ _)) (Nat.add_le_add ?_ ?_) <;>
    split <;> decide

/-- A stage makes at most the requests of its bound. -/
theorem requests_stageEffect (b : PhaseBit) {s : State} (h : CountsInRange s) :
    Requests (requestBound s.frame.bw b) s.cursor (stageEffect b s).cursor := by
  obtain ⟨hrate, hcounts⟩ := h
  have hblock : ∀ b, b < blocks s → b < 20 := fun b hb => hb.trans_le (blocks_le s)
  cases b with
  | s1 => exact requests_sym (stage1Table_wf s) s.cursor
  | s2 => exact (lsfS2_served s).imp_left (le_of_add_le_left ·)
  | interp => exact requests_interpFactor s
  | pitch => exact requests_pitchLags s
  | ltpc => exact requests_of_eq (ltpCoefs_served s) le_rfl
  | ltps =>
    obtain ⟨-, -, hicdf, -⟩ := ltpTables_wf s
    exact requests_sym hicdf s.cursor
  | seed => exact requests_sym (seedTable_wf s) s.cursor
  | rate => exact requests_sym (rateTable_wf s) s.cursor
  | counts => exact (excCounts_served hrate).imp_left (le_of_add_le_left ·)
  | shell => exact requests_excShell fun b hb => (hcounts b (hblock b hb)).1
  | lsb => exact requests_excLsb fun b hb => (hcounts b (hblock b hb)).2
  | signs => exact requests_excSigns s
  | _ => exact requests_of_eq rfl (Nat.zero_le _)

/-- Stages in order make at most the requests of their bounds together. -/
theorem requests_runStages (bs : List PhaseBit) {s : State} (h : CountsInRange s) :
    Requests (bs.map (requestBound s.frame.bw)).sum s.cursor (runStages bs s).cursor := by
  induction bs generalizing s with
  | nil => exact requests_of_eq rfl le_rfl
  | cons b bs ih =>
    obtain ⟨hlo, hhi⟩ := requests_stageEffect b h
    obtain ⟨hlo', hhi'⟩ := ih (stage_countsInRange b h)
    rw [stageEffect_frame] at hhi'
    rw [List.map_cons, List.sum_cons, Requests, show runStages (b :: bs) s = runStages bs (stageEffect b s) from rfl]
    omega

/-- The bounds of the stages of a frame sum to at most 4088 (45_frame_control.md R247). -/
theorem sum_requestBound_le (bw : Bandwidth) (interp voiced : Bool) :
    ((lsfStages ++ lateStages interp voiced).map (requestBound bw)).sum ≤ 4088 := by
  cases bw <;> cases interp <;> cases voiced <;> decide

theorem requests_wholeFrame {s : State} (h : CountsInRange s) : Requests 4088 s.cursor (wholeFrame s).cursor := by
  rw [wholeFrame_eq, frameEnd_cursor, ← runStages_append]
  obtain ⟨hlo, hhi⟩ := requests_runStages (lsfStages ++ lateStages (runStages lsfStages s).work.interp (voiced s)) h
  exact ⟨hlo, hhi.trans (Nat.add_le_add_left (sum_requestBound_le _ _ _) _)⟩

theorem requests_execDecodeFrame (s : State) :
    ∃ t, exec .decodeFrame s = .next t ∧ Requests 4088 s.cursor t.cursor := by
  cases h : checkFrame s with
  | reject c => exact ⟨_, exec_decodeFrame_of_reject h, requests_of_eq rfl (Nat.zero_le _)⟩
  | accept bw sig =>
    exact ⟨_, exec_decodeFrame_of_accept h, requests_wholeFrame (countsInRange_frameBegin bw sig s)⟩

end Sys2Proof.Machine
end

section
/-! PROOFS. What no command writes: the host registers, the host port and the parameter record; and what only the
commands of frame control write: the persistent state and the latched parameters (10_state.md sections 2 to 4). -/

namespace Sys2Proof.Machine

/-- The fields of the host and of the builder are the same: all but STATUS, PHASE and the decoder's state, the cursor
and the counter of free values. -/
structure HostKept (s t : State) : Prop where
  irqEn : t.irqEn = s.irqEn
  cfg : t.cfg = s.cfg
  durationNs : t.durationNs = s.durationNs
  outCap : t.outCap = s.outCap
  frameInfo : t.frameInfo = s.frameInfo
  gainIn : t.gainIn = s.gainIn
  bus : t.bus = s.bus
  rdata : t.rdata = s.rdata
  tables : t.tables = s.tables

theorem hostKept_refl (s : State) : HostKept s s := by
  constructor <;> rfl

theorem action_keeps_hostKept {r s t : State} (h : Action s t) (hs : HostKept r s) : HostKept r t := by
  cases h with
  | stage b _ =>
    obtain ⟨w, c, hb⟩ := stageEffect_shape b s
    rw [hb]
    exact { hs with }
  | _ => exact { hs with }

theorem exec_hostKept (i : Instr) (s : State) : ∃ t, exec i s = .next t ∧ HostKept s t := by
  rcases exec_completes i s with ⟨c, hc⟩ | ⟨u, hu, hc⟩
  · exact ⟨_, hc, { hostKept_refl s with }⟩
  · have hkept := reaches_keeps (fun _ _ => action_keeps_hostKept) (hostKept_refl s) hu
    exact ⟨_, hc, { hkept with }⟩

/-- A command that is not of frame control runs one stage or shows an error. -/
theorem exec_dec_frame {i : Instr} {s t : State} (h : exec i s = .next t)
    (hi : i ∉ [Instr.frameBegin, .frameEnd, .resetState, .decodeFrame]) : t.dec = s.dec ∧ t.frame = s.frame := by
  cases hwf : i.wf with
  | false =>
    cases (unadmittedOperandsAreIllegal i s hwf).symm.trans h
    exact ⟨rfl, rfl⟩
  | true =>
    obtain ⟨b, hb, rfl⟩ := exists_commandOf hwf hi
    exact (h ▸ exec_commandOf hb s).dec_frame

end Sys2Proof.Machine
end

section
/-! PROOFS. The statements of 45_frame_control.md, settled. -/

open Sys2Proof Sys2Proof.Machine

/-- Settles O18: the one case split is whether the bandwidth changes. -/
theorem frameBeginOpensTheFrame : Obligations.FrameBeginOpensTheFrame := by
  intro s hargs
  obtain ⟨bw, sig, hcheck, hbw, hsig⟩ := checkFrame_of_argumentsOk hargs
  exact ⟨_, exec_frameBegin_of_accept hcheck, hbw, hsig, qoffIn_eq_high_iff s, rfl, rfl, workCleared_reset,
    reinit_cleared, reinit_of_no_change, rfl⟩

/-- Settles O19: the last samples of the frame, and behind a frame of less than 306 the newest of the old history. -/
theorem frameEndCommitsTheFrame : Obligations.FrameEndCommitsTheFrame := by
  intro s hsyn
  exact ⟨_, exec_frameEnd hsyn, fun k => frameEnd_outHist s, fun k => frameEnd_lpcHist s,
    fun k => frameEnd_prevNlsf s, rfl, rfl, rfl⟩

/-- Settles O20, by the reset values of 10_state.md R45. -/
theorem resetStateSparesHostRegisters : Obligations.ResetStateSparesHostRegisters := fun _ =>
  ⟨_, rfl, decoderCleared_reset, rfl, latchedCleared_reset, workCleared_reset, rfl⟩

/-- Settles O21: every command of the sequence may run when its turn comes, and does the stage DECODE_FRAME does. -/
theorem decodeFrameIsItsCommandSequence : Obligations.DecodeFrameIsItsCommandSequence := by
  intro s hargs
  obtain ⟨bw, sig, hcheck, hbw, -⟩ := checkFrame_of_argumentsOk hargs
  have hlate := runCommands_late (s := runStages lsfStages (frameBegin bw sig s)) fun c => by simp
  rw [map_commandOf_lateStages, voiced_runStages, ← wholeFrame_eq, List.append_assoc] at hlate
  refine ⟨_, _, runCommands_lsf hcheck, hlate, exec_decodeFrame_of_accept hcheck, rfl, rfl, ?_, rfl,
    by simp, by simp⟩
  rwa [complete_dec, wholeFrame_prevBw]

/-- Settles O22: a stage's bound holds in every state its predecessors leave. -/
theorem decodeFrameMakesAtMost4088Requests : Obligations.DecodeFrameMakesAtMost4088Requests :=
  requests_execDecodeFrame

/-- Settles O53: every effect of a command keeps the host's fields, and a stage the decoder's persistent ones. -/
theorem commandsWriteOnlyTheirStateClass : Obligations.CommandsWriteOnlyTheirStateClass := by
  intro i s
  obtain ⟨t, ht, hkept⟩ := exec_hostKept i s
  exact ⟨t, ht, hkept.irqEn, hkept.cfg, hkept.durationNs, hkept.outCap, hkept.frameInfo, hkept.gainIn, hkept.bus,
    hkept.rdata, hkept.tables, exec_dec_frame ht⟩

end

section
/-! PROOFS. Errors and completion: what the error fields and the interrupt line are after a command
(60_exceptions.md R310, R311, R315), and which argument check of FRAME_BEGIN fails first (60_exceptions.md R308). -/

namespace Sys2Proof.Machine

/-! ### Completion -/

theorem action_keeps_errorFields {r s t : State} (h : Action s t) (hs : s.err = r.err ∧ s.errCode = r.errCode) :
    t.err = r.err ∧ t.errCode = r.errCode := by
  cases h with
  | stage b _ => rwa [stageEffect_err, stageEffect_errCode]
  | _ => exact hs

/-- A chain of commands keeps ERR and ERRCODE (60_exceptions.md R311). -/
theorem reaches_errorFields {s t : State} (h : Reaches s t) : t.err = s.err ∧ t.errCode = s.errCode :=
  reaches_keeps (fun _ _ => action_keeps_errorFields) ⟨rfl, rfl⟩ h

theorem reaches_hostKept {s t : State} (h : Reaches s t) : HostKept s t :=
  reaches_keeps (fun _ _ => action_keeps_hostKept) (hostKept_refl s) h

theorem irq_of_err {s : State} (h : s.err = true) : irq s = s.irqEn := by
  simp [irq, h]

/-! ### The first failing check of FRAME_BEGIN (45_frame_control.md R240) -/

theorem exec_frameBegin_of_reject {s : State} {c : ErrCode} (h : checkFrame s = .reject c) :
    exec .frameBegin s = raiseError c s := by
  simp only [exec, execFrameBegin, h]

/-- FRAME_BEGIN and DECODE_FRAME report what the checks reject, and change nothing else (60_exceptions.md R310). -/
theorem exec_of_reject {i : Instr} {s : State} {c : ErrCode} (hi : i = .frameBegin ∨ i = .decodeFrame)
    (h : checkFrame s = .reject c) : exec i s = .next { s with err := true, errCode := errNumber c } := by
  rcases hi with rfl | rfl
  · exact exec_frameBegin_of_reject h
  · exact exec_decodeFrame_of_reject h

theorem bwReq_eq_none {s : State} (h : s.cfg.toNat % 4 = 3) : bwReq s = none := by
  simp [bwReq, h]

theorem sigTypeIn_eq_none {s : State} (h : s.frameInfo.toNat % 4 = 3) : sigTypeIn s = none := by
  simp [sigTypeIn, h]

theorem gainsPositive_eq_false {s : State} {k : Nat} (hk : k < 4) (h : rdI s.gainIn k ≤ 0) :
    gainsPositive s = false := by
  rw [rdI, rd_eq_getElem _ _ _ hk] at h
  simp only [gainsPositive, List.all_eq_false, decide_eq_true_eq, not_lt]
  exact ⟨_, by simp, h⟩

section
variable {s : State} (hclosed : phaseHas s .f = false)
include hclosed

theorem checkFrame_of_duration (hdur : s.durationNs.toNat ≠ frameNs) :
    checkFrame s = .reject .unsupportedFrameDuration := by
  simp [checkFrame, hclosed, hdur]

variable (hdur : s.durationNs.toNat = frameNs)
include hdur

theorem checkFrame_of_stereo (hstereo : stereoReq s = true) : checkFrame s = .reject .unsupportedStereo := by
  simp [checkFrame, hclosed, hdur, hstereo]

variable (hmono : stereoReq s = false)
include hmono

theorem checkFrame_of_bandwidth (hbw : bwReq s = none) : checkFrame s = .reject .unsupportedBandwidth := by
  simp [checkFrame, hclosed, hdur, hmono, hbw]

variable {bw : Bandwidth} (hbw : bwReq s = some bw)
include hbw

theorem checkFrame_of_buffer (hcap : s.outCap.toNat < nFrame bw) : checkFrame s = .reject .outputBufferTooSmall := by
  simp [checkFrame, hclosed, hdur, hmono, hbw, hcap]

/-- The class and the gains come last, under one code (60_exceptions.md R306). -/
theorem checkFrame_of_frameInfo (hcap : nFrame bw ≤ s.outCap.toNat)
    (hinfo : sigTypeIn s = none ∨ gainsPositive s = false) : checkFrame s = .reject .badFrameInfo := by
  simp only [checkFrame, hclosed, hdur, hmono, hbw, Nat.not_lt.mpr hcap, Bool.false_eq_true, ne_eq, not_true_eq_false,
    if_false]
  rcases hinfo with hnone | hgains
  · rw [hnone]
  · cases sigTypeIn s with
    | none => rfl
    | some sig => simp only [hgains, Bool.false_eq_true, if_false]

end

end Sys2Proof.Machine
end

section
/-! PROOFS. Runs: a step takes the first access from the host's list, so that a run over admitted accesses meets no
other (20_memory.md R75). -/

namespace Sys2Proof.Machine

theorem served_bus {s t : State} (h : Served s t) : t.bus = s.bus := by
  cases h with
  | command h => exact (reaches_hostKept h).bus
  | _ => rfl

theorem writeWord_served {a : Nat} {v : Word} {s t : State} (h : writeWord a v s = .next t) : Served s t := by
  rw [writeWord] at h
  cases hloc : locate a with
  | none =>
    rw [hloc] at h
    cases h
    exact .unchanged s
  | some loc =>
    rw [hloc] at h
    exact writeLoc_served h

theorem serve_served {s t : State} {op : BusOp} (h : serve s op = .next t) : Served s t := by
  cases op with
  | resetPin =>
    cases h
    exact .reset
  | read size a =>
    rw [serve] at h
    split at h
    · cases h
      exact .read _
    · cases h
  | write size a v =>
    rw [serve] at h
    split at h
    · exact writeWord_served h
    · cases h

/-- No command and no reset touches the accesses still to come. -/
theorem step_bus {s t : State} (h : step s = .next t) : t.bus = s.bus.tail := by
  cases hb : s.bus with
  | nil =>
    cases (step_nil hb).symm.trans h
    exact hb
  | cons op rest => exact served_bus (serve_served ((step_cons hb).symm.trans h))

theorem step_next_of_portAdmitted {s : State} (h : PortAdmitted s) : ∃ t, step s = .next t :=
  stepRefusesExactlyUnadmittedAccesses.2 s fun op _ hb => h op (hb ▸ List.mem_cons_self)

theorem step_keeps_portAdmitted {s t : State} (hs : PortAdmitted s) (h : step s = .next t) : PortAdmitted t :=
  fun op hop => hs op (List.mem_of_mem_tail (step_bus h ▸ hop))

theorem run_succ_of_step {M : Host.Core} {s t : M.State} (h : M.step s = .next t) (n : Nat) :
    M.run (n + 1) s = M.run n t := by
  rw [Host.Core.run, h]

end Sys2Proof.Machine
end

section
/-! PROOFS. The statements of 60_exceptions.md, settled. -/

open Sys2Proof Sys2Proof.Machine

/-- Settles O7, by induction on the number of steps: each takes one access from an admitted list. -/
theorem admittedRunsNeverStop : Obligations.AdmittedRunsNeverStop := by
  intro n
  induction n with
  | zero => exact fun s hs => ⟨s, rfl, hs⟩
  | succ n ih =>
    intro s hs
    obtain ⟨t, ht⟩ := step_next_of_portAdmitted hs
    obtain ⟨u, hu, hadmitted⟩ := ih t (step_keeps_portAdmitted hs ht)
    exact ⟨u, (run_succ_of_step (M := Sys2Proof.core) ht n).trans hu, hadmitted⟩

/-- Settles O15: a command shows an error, or is a chain of effects that keep the error fields, and DONE. -/
theorem commandsCompleteOrChangeOnlyTheErrorFields : Obligations.CommandsCompleteOrChangeOnlyTheErrorFields := by
  intro i s
  rcases exec_completes i s with ⟨c, hc⟩ | ⟨u, hu, hc⟩
  · obtain ⟨hlo, hhi⟩ := errNumber_range c
    exact ⟨_, hc, irq_of_err rfl, .inl ⟨errNumber c, hlo, hhi, rfl⟩⟩
  · obtain ⟨herr, hcode⟩ := reaches_errorFields hu
    exact ⟨_, hc, (irq_complete u).trans (reaches_hostKept hu).irqEn, .inr ⟨rfl, herr, hcode⟩⟩

/-- Settles O17: every check is reached where the checks before it pass. -/
theorem firstFailingArgumentCheckIsReported : Obligations.FirstFailingArgumentCheckIsReported := by
  intro i s hi hclosed
  refine ⟨fun hdur => exec_of_reject hi (checkFrame_of_duration hclosed hdur), fun hdur => ?_⟩
  refine ⟨fun hstereo => exec_of_reject hi (checkFrame_of_stereo hclosed hdur hstereo), fun hmono => ?_⟩
  refine ⟨fun hbw => exec_of_reject hi (checkFrame_of_bandwidth hclosed hdur hmono (bwReq_eq_none hbw)),
    fun hbw => ?_⟩
  obtain ⟨bw, hsome, hcode⟩ := exists_bwReq (s := s) (by omega)
  rw [← hcode, samplesFor_bwCode]
  refine ⟨fun hcap => exec_of_reject hi (checkFrame_of_buffer hclosed hdur hmono hsome hcap), fun hcap hinfo =>
    exec_of_reject hi (checkFrame_of_frameInfo hclosed hdur hmono hsome hcap ?_)⟩
  rcases hinfo with hclass | ⟨k, hk, hgain⟩
  · exact .inl (sigTypeIn_eq_none hclass)
  · exact .inr (gainsPositive_eq_false hk hgain)

end

section
/-! PROOFS. Resets, the order of PHASE from step to step, and what the preconditions decide (70_reset_and_hazards.md
R330, R331, R340). -/

namespace Sys2Proof.Machine

/-! ### Resets -/

/-- What a reset of the block leaves is none of the elements of 10_state.md R45. -/
theorem resetBlock_resetValues (s : State) : ResetValues (resetBlock s) := resetStateHoldsResetValues

/-- The reset input and a write of 1 to SOFT_RESET reset the block (70_reset_and_hazards.md R330, R331). -/
theorem step_of_reset {s : State} {op : BusOp} {rest : List BusOp} (h : s.bus = op :: rest)
    (hop : op = .resetPin ∨ ∃ v : Word, op = .write 4 0x004 v ∧ v.getLsbD 0 = true) :
    step s = .next (resetBlock { s with bus := rest }) := by
  rcases hop with rfl | ⟨v, rfl, hv⟩
  · exact step_cons h
  · rw [step_writeLoc h rfl locate_ctrl, writeLoc, writeCtrl, if_pos hv]

/-! ### The order of PHASE -/

/-- No access but a reset and a command writes PHASE, the latched class or S.INTERP. -/
theorem served_phaseOrdered {s t : State} (h : Served s t) (hs : PhaseOrdered s) : PhaseOrdered t := by
  cases h with
  | reset => exact phaseOrdered_of_phase_zero rfl
  | command h =>
    have hu := reaches_keeps (fun _ _ => action_keeps_phaseOrdered) hs h
    exact hu
  | _ => exact hs

/-! ### The preconditions, bit by bit -/

theorem precondition_lpcConvert (set : Fin 2) (s : State) :
    Precondition s (.lpcConvert (BitVec.ofNat 4 set)) = mayConvert set s := by
  match set with
  | 0 => exact Bool.and_right_comm _ _ _
  | 1 => exact (Bool.and_true _).symm

theorem precondition_pitchLags (s : State) : Precondition s .pitchLags = (after .interp .pitch s && voiced s) :=
  Bool.and_right_comm _ _ _

theorem precondition_excSeed (s : State) :
    Precondition s .excSeed = (after .interp .seed s && (!voiced s || phaseHas s .ltps)) :=
  Bool.and_right_comm _ _ _

/-- The bit of the coefficient set of a subframe: G0 or G1 (44_synthesis.md R221). -/
theorem phaseIndex_gain_setOfSubframe (s : State) (sub : Fin 4) :
    phaseIndex (.gain (setOfSubframe s sub)) = if s.work.interp = true ∧ sub.val < 2 then 8 else 11 := by
  rw [setOfSubframe]
  split <;> rfl

/-- The bit of the subframe before is one below the subframe's own. -/
theorem priorDone_eq (sub : Fin 4) (s : State) :
    priorDone sub s = (BitVec.ofNat 4 sub == 0 || s.phase.getLsbD (21 + sub.val)) := by
  match sub with
  | 0 | 1 | 2 | 3 => rfl

theorem precondition_synth (sub : Fin 4) (s : State) :
    Precondition s (.synth (BitVec.ofNat 4 sub)) = maySynth sub s := by
  have hval : (BitVec.ofNat 4 sub.val).toNat = sub.val := by
    rw [BitVec.toNat_ofNat, Nat.mod_eq_of_lt (by omega)]
  rw [Precondition, hval, ← priorDone_eq, ← phaseIndex_gain_setOfSubframe, maySynth, after, Bool.and_right_comm,
    Bool.and_right_comm (phaseHas s .erecon)]
  rfl

/-- The precondition of the command of a stage says that the stage may run. -/
theorem precondition_commandOf_iff {b : PhaseBit} (hb : b ≠ .f) (s : State) :
    Precondition s (commandOf b) = true ↔ MayRun b s := by
  have hafter := fun x hx => after_iff_mayRun (x := x) (s := s) hb hx
  cases b with
  | f => exact absurd rfl hb
  | s1 => exact hafter .f .rfl
  | s2 => exact hafter .s1 .rfl
  | recon => exact hafter .s2 .rfl
  | stab => exact hafter .recon .rfl
  | interp => exact hafter .stab .rfl
  | conv set => exact precondition_lpcConvert set s ▸ mayConvert_iff_mayRun
  | range set =>
    match set with
    | 0 => exact hafter (.conv 0) .rfl
    | 1 => exact hafter (.conv 1) .rfl
  | gain set =>
    match set with
    | 0 => exact hafter (.range 0) .rfl
    | 1 => exact hafter (.range 1) .rfl
  | pitch => exact precondition_pitchLags s ▸ mayPitch_iff_mayRun
  | ltpc => exact hafter .pitch .rfl
  | ltps => exact hafter .ltpc .rfl
  | seed => exact precondition_excSeed s ▸ maySeed_iff_mayRun
  | rate => exact hafter .seed .rfl
  | counts => exact hafter .rate .rfl
  | shell => exact hafter .counts .rfl
  | lsb => exact hafter .shell .rfl
  | signs => exact hafter .lsb .rfl
  | erecon => exact hafter .signs .rfl
  | syn sub => exact precondition_synth sub s ▸ maySynth_iff_mayRun

/-! ### Where a command completes -/

/-- The outcome is completion without error: DONE is set, ERR and ERRCODE are kept (60_exceptions.md R311). -/
def CompletesCleanly (s : State) (o : Outcome) : Prop :=
  ∃ t, o = .next t ∧ t.done = true ∧ t.err = s.err ∧ t.errCode = s.errCode

theorem completesCleanly_of_reaches {s u : State} (h : Reaches s u) : CompletesCleanly s (.next (complete u)) :=
  by
  obtain ⟨herr, hcode⟩ := reaches_errorFields h
  exact ⟨_, rfl, rfl, herr, hcode⟩

/-- With a frame open FRAME_BEGIN and DECODE_FRAME check nothing more (60_exceptions.md R308). -/
theorem checkFrame_of_open {s : State} (h : phaseHas s .f = true) : checkFrame s = .reject .sequenceError := by
  simp [checkFrame, h]

/-- With no frame open the checks of FRAME_BEGIN reject an argument alone (60_exceptions.md R301 to R306). -/
theorem errNumber_of_reject_closed {s : State} {c : ErrCode} (hclosed : phaseHas s .f = false)
    (h : checkFrame s = .reject c) : errNumber c ∈ ([1, 2, 3, 4, 7] : List (BitVec 4)) := by
  rw [checkFrame, if_neg (by simp [hclosed])] at h
  repeat' split at h
  all_goals cases h <;> decide

/-- An accepted FRAME_BEGIN or DECODE_FRAME completes. -/
theorem exec_completesCleanly_of_accept {i : Instr} {s : State} {bw : Bandwidth} {sig : SigType}
    (hi : i = .frameBegin ∨ i = .decodeFrame) (h : checkFrame s = .accept bw sig) :
    CompletesCleanly s (exec i s) := by
  rcases hi with rfl | rfl
  · exact exec_frameBegin_of_accept h ▸ completesCleanly_of_reaches (.single (.begin h))
  · exact exec_decodeFrame_of_accept h ▸ completesCleanly_of_reaches (reaches_wholeFrame h)

/-- The precondition of a command decides between SEQUENCE_ERROR and completion (70_reset_and_hazards.md R340,
60_exceptions.md R307). -/
def DecidedByPrecondition (i : Instr) (s : State) : Prop :=
  (Precondition s i = false → exec i s = .next { s with err := true, errCode := 6 }) ∧
  (Precondition s i = true → CompletesCleanly s (exec i s))

theorem commandOf_decided {b : PhaseBit} (hb : b ≠ .f) (s : State) : DecidedByPrecondition (commandOf b) s := by
  have hpre := precondition_commandOf_iff hb s
  rcases exec_commandOf hb s with ⟨hrun, hexec⟩ | ⟨hrun, hexec⟩
  · refine ⟨fun h => absurd (hpre.mpr hrun) (by simp [h]), fun _ => ?_⟩
    exact hexec ▸ completesCleanly_of_reaches (.single (.stage b hrun))
  · exact ⟨fun _ => hexec, fun h => absurd (hpre.mp h) hrun⟩

theorem frameEnd_decided (s : State) : DecidedByPrecondition .frameEnd s :=
  ⟨command_of_not_pre (pre := fun s => phaseHas s (.syn 3)) frameEnd,
    fun h => exec_frameEnd h ▸ completesCleanly_of_reaches (.single (.close h))⟩

theorem resetState_decided (s : State) : DecidedByPrecondition .resetState s :=
  ⟨nofun, fun _ => completesCleanly_of_reaches (.single .clear)⟩

/-- Every well-formed command but the two that check arguments is decided by its precondition. -/
theorem exec_decided {i : Instr} (hwf : i.wf = true) (hi : ¬(i = .frameBegin ∨ i = .decodeFrame)) (s : State) :
    DecidedByPrecondition i s := by
  by_cases hstage : i ∈ [Instr.frameBegin, .frameEnd, .resetState, .decodeFrame]
  · simp only [List.mem_cons, List.not_mem_nil, or_false] at hstage
    rcases hstage with rfl | rfl | rfl | rfl
    · exact absurd (.inl rfl) hi
    · exact frameEnd_decided s
    · exact resetState_decided s
    · exact absurd (.inr rfl) hi
  · obtain ⟨b, hb, rfl⟩ := exists_commandOf hwf hstage
    exact commandOf_decided hb s

end Sys2Proof.Machine
end

section
/-! PROOFS. The statements of 70_reset_and_hazards.md, settled. -/

open Sys2Proof Sys2Proof.Machine

/-- Settles O59: every access keeps the order, a command because each of its effects does. -/
theorem stepsKeepPhaseOrdered : Obligations.StepsKeepPhaseOrdered := by
  intro s t hs h
  obtain ⟨rest, hserved⟩ := step_served h
  exact served_phaseOrdered hserved hs

/-- Settles O13: both ways reset the block. -/
theorem resetsRestoreResetValues : Obligations.ResetsRestoreResetValues :=
  fun _ _ _ h hop => ⟨_, step_of_reset h hop, resetBlock_resetValues _, rfl, rfl, rfl, rfl⟩

/-- Settles O16: FRAME_BEGIN and DECODE_FRAME check their arguments where no frame is open, the other commands run
wherever their precondition holds. -/
theorem preconditionsDecideSequenceErrors : Obligations.PreconditionsDecideSequenceErrors := by
  intro i s hwf
  by_cases hi : i = .frameBegin ∨ i = .decodeFrame
  · have hpre : Precondition s i = !phaseHas s .f := by rcases hi with rfl | rfl <;> rfl
    rw [hpre, Bool.not_eq_false', Bool.not_eq_true']
    refine ⟨fun hopen => exec_of_reject hi (checkFrame_of_open hopen), fun hclosed => ?_⟩
    cases hcheck : checkFrame s with
    | accept bw sig =>
      obtain ⟨t, ht, hdone⟩ := exec_completesCleanly_of_accept hi hcheck
      exact ⟨t, ht, .inl hdone⟩
    | reject c =>
      exact ⟨_, exec_of_reject hi hcheck, .inr ⟨hi, _, errNumber_of_reject_closed hclosed hcheck, rfl⟩⟩
  · obtain ⟨herror, hcomplete⟩ := exec_decided hwf hi s
    refine ⟨herror, fun h => ?_⟩
    obtain ⟨t, ht, hdone⟩ := hcomplete h
    exact ⟨t, ht, .inl hdone⟩

end
